-- ==== Sys2Proof/Word.lean ====
section
/-! DEFINITION. The two word types of the core (R9): a Byte is 8 bits, a Word is 16 bits; their
addition and subtraction are the `wrap8` and `wrap16` arithmetic of R12. The bit-field helpers stand in
`Decode.lean` and `Machine/Ops.lean`. -/

namespace Sys2Proof

/-- An 8-bit value, arithmetic modulo 256 (R9). -/
abbrev Byte := BitVec 8

/-- A 16-bit value, arithmetic modulo 65536; every address is one (R9). -/
abbrev Word := BitVec 16

end Sys2Proof
end

