-- ==== Sys2Proof/Config.lean ====
section
/-! DEFINITION. What is fixed for one machine (the parameters of R10) and what the spec leaves open:
the answers of the bus, which R53 makes an oracle "possibly depending on the whole history of accesses". -/

namespace Sys2Proof

/-- The parameters of R10 that the model takes as an argument. `State` carries them unchanged, so a
statement about every state holds for every value of them. The other parameters of R10 have one value:
`DATA_WIDTH` and `ADDR_WIDTH` are the types `Byte` and `Word`, `CYCLE_COUNTER_WIDTH` is `Nat`,
`DECIMAL_ARITHMETIC` is false (D2: no rule gives a decimal result), `Bus` is `Machine.Bus`. DESIGN CHOICE (log entry 8),
safe. -/
structure Params where
  /-- `RESET_VECTOR`: address of the reset vector's low byte (D3, an OPEN parameter). -/
  resetVector : Word
  /-- `BRK_VECTOR`: address of the BRK vector's low byte (D4, an OPEN parameter). -/
  brkVector : Word
  /-- `STACK_PAGE`: the page the stack lies in (D8). -/
  stackPage : Byte
  /-- `POWER_ON_CYCLES`: the cycle counter after power-on (D16). -/
  powerOnCycles : Nat
  /-- The bytes of the opcode table that are taken OUT of `OPCODE_SET`; each then raises a DecodeError (D1). -/
  excludedOpcodes : List Byte
  deriving DecidableEq, Repr

/-- The values this hardware takes (R10). -/
def Params.hardware : Params where
  resetVector := 0xFFFC
  brkVector := 0xFFFE
  stackPage := 0x01
  powerOnCycles := 0
  excludedOpcodes := []

/-- One access on the bus. Every access is one byte wide (R57); an access at which the bus raises an error
is recorded too, with the bus's own error (R233), a number. DESIGN CHOICE (log entry 14), safe. -/
inductive BusAccess where
  | read (a : Word) (v : Byte)
  | write (a : Word) (v : Byte)
  | readRaised (a : Word) (e : Nat)
  | writeRaised (a : Word) (v : Byte) (e : Nat)
  deriving DecidableEq, Repr

/-- FREE VALUE (R53, D22), DESIGN CHOICE (log entry 3). The byte a device or open-bus read of an address answers, given
the whole history of accesses, newest first. No body: nothing constrains it. -/
opaque Config.busByte : List BusAccess → Word → Byte

/-- FREE VALUE (R53, R233), DESIGN CHOICE (log entry 3). The error, if any, the bus raises at a read of an address that
may fail. -/
opaque Config.busReadError : List BusAccess → Word → Option Nat

/-- FREE VALUE (R53, R233), DESIGN CHOICE (log entry 3). The error, if any, the bus raises at a write to an address that
may fail. -/
opaque Config.busWriteError : List BusAccess → Word → Byte → Option Nat

end Sys2Proof
end

