-- ==== Sys2Proof/Syntax.lean ====
section
/-! DEFINITION. The syntax of the instruction set: the 56 operations, the 13 addressing modes, an operand with
its mode, the instruction type with one constructor per row of `spec/opcode_table.json`, and the raw
(operation, mode, operand bytes) term of the construction path (R83, R102, R116). -/

namespace Sys2Proof

/-- The 56 operations (mnemonics), in the order of the spec's files (R2, R19). -/
inductive Operation where
  | adc | sbc | cmp | cpx | cpy | inc | dec | inx | iny | dex | dey
  | eor | and | ora | bit
  | lsr | asl | rol | ror
  | lda | ldx | ldy | sta | stx | sty | tax | tay | txa | tya | tsx | txs
  | pha | php | pla | plp
  | clc | sec | cli | sei | cld | sed | clv
  | bpl | bmi | bvc | bvs | bcc | bcs | bne | beq | jmp | jsr | rts | brk | rti | nop
  deriving DecidableEq, Repr

/-- The closed set of 13 addressing modes (R84). -/
inductive AddressMode where
  | implied | accumulator | immediate | zeroPage | zeroPageX | zeroPageY | absolute | absoluteX | absoluteY
  | indirect | indirectX | indirectY | relative
  deriving DecidableEq, Repr

/-- An operand: an addressing mode with the operand bytes that follow the opcode, assembled as the
columns of R81 say. -/
inductive Operand where
  | implied
  | accumulator
  | immediate (v : Byte)
  | zeroPage (z : Byte)
  | zeroPageX (z : Byte)
  | zeroPageY (z : Byte)
  | absolute (w : Word)
  | absoluteX (w : Word)
  | absoluteY (w : Word)
  | indirect (w : Word)
  | indirectX (z : Byte)
  | indirectY (z : Byte)
  | relative (off : Byte)
  deriving DecidableEq, Repr

/-- The addressing mode of an operand. -/
def Operand.mode : Operand → AddressMode
  | .implied => .implied
  | .accumulator => .accumulator
  | .immediate _ => .immediate
  | .zeroPage _ => .zeroPage
  | .zeroPageX _ => .zeroPageX
  | .zeroPageY _ => .zeroPageY
  | .absolute _ => .absolute
  | .absoluteX _ => .absoluteX
  | .absoluteY _ => .absoluteY
  | .indirect _ => .indirect
  | .indirectX _ => .indirectX
  | .indirectY _ => .indirectY
  | .relative _ => .relative

/-- The instructions: one constructor per row of `spec/opcode_table.json` (R99). The name is the mnemonic
and the mode: `Imm` Immediate, `Zp`/`ZpX`/`ZpY` ZeroPage, `Abs`/`AbsX`/`AbsY` Absolute, `Ind` Indirect,
`IndX`/`IndY` IndirectX/IndirectY, `A` Accumulator; a Relative or Implied row, and JSR, has the mnemonic alone. -/
inductive Instr where
  -- Arithmetic
  | adcImm (v : Byte)
  | adcZp (z : Byte)
  | adcZpX (z : Byte)
  | adcAbs (w : Word)
  | adcAbsX (w : Word)
  | adcAbsY (w : Word)
  | adcIndX (z : Byte)
  | adcIndY (z : Byte)
  | sbcImm (v : Byte)
  | sbcZp (z : Byte)
  | sbcZpX (z : Byte)
  | sbcAbs (w : Word)
  | sbcAbsX (w : Word)
  | sbcAbsY (w : Word)
  | sbcIndX (z : Byte)
  | sbcIndY (z : Byte)
  | cmpImm (v : Byte)
  | cmpZp (z : Byte)
  | cmpZpX (z : Byte)
  | cmpAbs (w : Word)
  | cmpAbsX (w : Word)
  | cmpAbsY (w : Word)
  | cmpIndX (z : Byte)
  | cmpIndY (z : Byte)
  | cpxImm (v : Byte)
  | cpxZp (z : Byte)
  | cpxAbs (w : Word)
  | cpyImm (v : Byte)
  | cpyZp (z : Byte)
  | cpyAbs (w : Word)
  | incZp (z : Byte)
  | incZpX (z : Byte)
  | incAbs (w : Word)
  | incAbsX (w : Word)
  | decZp (z : Byte)
  | decZpX (z : Byte)
  | decAbs (w : Word)
  | decAbsX (w : Word)
  | inx
  | iny
  | dex
  | dey
  -- Logical
  | eorImm (v : Byte)
  | eorZp (z : Byte)
  | eorZpX (z : Byte)
  | eorAbs (w : Word)
  | eorAbsX (w : Word)
  | eorAbsY (w : Word)
  | eorIndX (z : Byte)
  | eorIndY (z : Byte)
  | andImm (v : Byte)
  | andZp (z : Byte)
  | andZpX (z : Byte)
  | andAbs (w : Word)
  | andAbsX (w : Word)
  | andAbsY (w : Word)
  | andIndX (z : Byte)
  | andIndY (z : Byte)
  | oraImm (v : Byte)
  | oraZp (z : Byte)
  | oraZpX (z : Byte)
  | oraAbs (w : Word)
  | oraAbsX (w : Word)
  | oraAbsY (w : Word)
  | oraIndX (z : Byte)
  | oraIndY (z : Byte)
  | bitZp (z : Byte)
  | bitAbs (w : Word)
  -- Shift
  | lsrA
  | lsrZp (z : Byte)
  | lsrZpX (z : Byte)
  | lsrAbs (w : Word)
  | lsrAbsX (w : Word)
  | aslA
  | aslZp (z : Byte)
  | aslZpX (z : Byte)
  | aslAbs (w : Word)
  | aslAbsX (w : Word)
  | rolA
  | rolZp (z : Byte)
  | rolZpX (z : Byte)
  | rolAbs (w : Word)
  | rolAbsX (w : Word)
  | rorA
  | rorZp (z : Byte)
  | rorZpX (z : Byte)
  | rorAbs (w : Word)
  | rorAbsX (w : Word)
  -- Transfer
  | ldaImm (v : Byte)
  | ldaZp (z : Byte)
  | ldaZpX (z : Byte)
  | ldaAbs (w : Word)
  | ldaAbsX (w : Word)
  | ldaAbsY (w : Word)
  | ldaIndX (z : Byte)
  | ldaIndY (z : Byte)
  | ldxImm (v : Byte)
  | ldxZp (z : Byte)
  | ldxZpY (z : Byte)
  | ldxAbs (w : Word)
  | ldxAbsY (w : Word)
  | ldyImm (v : Byte)
  | ldyZp (z : Byte)
  | ldyZpX (z : Byte)
  | ldyAbs (w : Word)
  | ldyAbsX (w : Word)
  | staZp (z : Byte)
  | staZpX (z : Byte)
  | staAbs (w : Word)
  | staAbsX (w : Word)
  | staAbsY (w : Word)
  | staIndX (z : Byte)
  | staIndY (z : Byte)
  | stxZp (z : Byte)
  | stxZpY (z : Byte)
  | stxAbs (w : Word)
  | styZp (z : Byte)
  | styZpX (z : Byte)
  | styAbs (w : Word)
  | tax
  | tay
  | txa
  | tya
  | tsx
  | txs
  -- Stack
  | pha
  | php
  | pla
  | plp
  -- FlagOps
  | clc
  | sec
  | cli
  | sei
  | cld
  | sed
  | clv
  -- Control
  | bpl (off : Byte)
  | bmi (off : Byte)
  | bvc (off : Byte)
  | bvs (off : Byte)
  | bcc (off : Byte)
  | bcs (off : Byte)
  | bne (off : Byte)
  | beq (off : Byte)
  | jmpAbs (w : Word)
  | jmpInd (w : Word)
  | jsr (w : Word)
  | rts
  | brk
  | rti
  | nop
  deriving DecidableEq, Repr

/-- The operation of an instruction (R99). -/
def Instr.operation : Instr → Operation
  | .adcImm _ => .adc
  | .adcZp _ => .adc
  | .adcZpX _ => .adc
  | .adcAbs _ => .adc
  | .adcAbsX _ => .adc
  | .adcAbsY _ => .adc
  | .adcIndX _ => .adc
  | .adcIndY _ => .adc
  | .sbcImm _ => .sbc
  | .sbcZp _ => .sbc
  | .sbcZpX _ => .sbc
  | .sbcAbs _ => .sbc
  | .sbcAbsX _ => .sbc
  | .sbcAbsY _ => .sbc
  | .sbcIndX _ => .sbc
  | .sbcIndY _ => .sbc
  | .cmpImm _ => .cmp
  | .cmpZp _ => .cmp
  | .cmpZpX _ => .cmp
  | .cmpAbs _ => .cmp
  | .cmpAbsX _ => .cmp
  | .cmpAbsY _ => .cmp
  | .cmpIndX _ => .cmp
  | .cmpIndY _ => .cmp
  | .cpxImm _ => .cpx
  | .cpxZp _ => .cpx
  | .cpxAbs _ => .cpx
  | .cpyImm _ => .cpy
  | .cpyZp _ => .cpy
  | .cpyAbs _ => .cpy
  | .incZp _ => .inc
  | .incZpX _ => .inc
  | .incAbs _ => .inc
  | .incAbsX _ => .inc
  | .decZp _ => .dec
  | .decZpX _ => .dec
  | .decAbs _ => .dec
  | .decAbsX _ => .dec
  | .inx => .inx
  | .iny => .iny
  | .dex => .dex
  | .dey => .dey
  | .eorImm _ => .eor
  | .eorZp _ => .eor
  | .eorZpX _ => .eor
  | .eorAbs _ => .eor
  | .eorAbsX _ => .eor
  | .eorAbsY _ => .eor
  | .eorIndX _ => .eor
  | .eorIndY _ => .eor
  | .andImm _ => .and
  | .andZp _ => .and
  | .andZpX _ => .and
  | .andAbs _ => .and
  | .andAbsX _ => .and
  | .andAbsY _ => .and
  | .andIndX _ => .and
  | .andIndY _ => .and
  | .oraImm _ => .ora
  | .oraZp _ => .ora
  | .oraZpX _ => .ora
  | .oraAbs _ => .ora
  | .oraAbsX _ => .ora
  | .oraAbsY _ => .ora
  | .oraIndX _ => .ora
  | .oraIndY _ => .ora
  | .bitZp _ => .bit
  | .bitAbs _ => .bit
  | .lsrA => .lsr
  | .lsrZp _ => .lsr
  | .lsrZpX _ => .lsr
  | .lsrAbs _ => .lsr
  | .lsrAbsX _ => .lsr
  | .aslA => .asl
  | .aslZp _ => .asl
  | .aslZpX _ => .asl
  | .aslAbs _ => .asl
  | .aslAbsX _ => .asl
  | .rolA => .rol
  | .rolZp _ => .rol
  | .rolZpX _ => .rol
  | .rolAbs _ => .rol
  | .rolAbsX _ => .rol
  | .rorA => .ror
  | .rorZp _ => .ror
  | .rorZpX _ => .ror
  | .rorAbs _ => .ror
  | .rorAbsX _ => .ror
  | .ldaImm _ => .lda
  | .ldaZp _ => .lda
  | .ldaZpX _ => .lda
  | .ldaAbs _ => .lda
  | .ldaAbsX _ => .lda
  | .ldaAbsY _ => .lda
  | .ldaIndX _ => .lda
  | .ldaIndY _ => .lda
  | .ldxImm _ => .ldx
  | .ldxZp _ => .ldx
  | .ldxZpY _ => .ldx
  | .ldxAbs _ => .ldx
  | .ldxAbsY _ => .ldx
  | .ldyImm _ => .ldy
  | .ldyZp _ => .ldy
  | .ldyZpX _ => .ldy
  | .ldyAbs _ => .ldy
  | .ldyAbsX _ => .ldy
  | .staZp _ => .sta
  | .staZpX _ => .sta
  | .staAbs _ => .sta
  | .staAbsX _ => .sta
  | .staAbsY _ => .sta
  | .staIndX _ => .sta
  | .staIndY _ => .sta
  | .stxZp _ => .stx
  | .stxZpY _ => .stx
  | .stxAbs _ => .stx
  | .styZp _ => .sty
  | .styZpX _ => .sty
  | .styAbs _ => .sty
  | .tax => .tax
  | .tay => .tay
  | .txa => .txa
  | .tya => .tya
  | .tsx => .tsx
  | .txs => .txs
  | .pha => .pha
  | .php => .php
  | .pla => .pla
  | .plp => .plp
  | .clc => .clc
  | .sec => .sec
  | .cli => .cli
  | .sei => .sei
  | .cld => .cld
  | .sed => .sed
  | .clv => .clv
  | .bpl _ => .bpl
  | .bmi _ => .bmi
  | .bvc _ => .bvc
  | .bvs _ => .bvs
  | .bcc _ => .bcc
  | .bcs _ => .bcs
  | .bne _ => .bne
  | .beq _ => .beq
  | .jmpAbs _ => .jmp
  | .jmpInd _ => .jmp
  | .jsr _ => .jsr
  | .rts => .rts
  | .brk => .brk
  | .rti => .rti
  | .nop => .nop

/-- The operand of an instruction: its addressing mode with its operand bytes (R99). -/
def Instr.operand : Instr → Operand
  | .adcImm v => .immediate v
  | .adcZp z => .zeroPage z
  | .adcZpX z => .zeroPageX z
  | .adcAbs w => .absolute w
  | .adcAbsX w => .absoluteX w
  | .adcAbsY w => .absoluteY w
  | .adcIndX z => .indirectX z
  | .adcIndY z => .indirectY z
  | .sbcImm v => .immediate v
  | .sbcZp z => .zeroPage z
  | .sbcZpX z => .zeroPageX z
  | .sbcAbs w => .absolute w
  | .sbcAbsX w => .absoluteX w
  | .sbcAbsY w => .absoluteY w
  | .sbcIndX z => .indirectX z
  | .sbcIndY z => .indirectY z
  | .cmpImm v => .immediate v
  | .cmpZp z => .zeroPage z
  | .cmpZpX z => .zeroPageX z
  | .cmpAbs w => .absolute w
  | .cmpAbsX w => .absoluteX w
  | .cmpAbsY w => .absoluteY w
  | .cmpIndX z => .indirectX z
  | .cmpIndY z => .indirectY z
  | .cpxImm v => .immediate v
  | .cpxZp z => .zeroPage z
  | .cpxAbs w => .absolute w
  | .cpyImm v => .immediate v
  | .cpyZp z => .zeroPage z
  | .cpyAbs w => .absolute w
  | .incZp z => .zeroPage z
  | .incZpX z => .zeroPageX z
  | .incAbs w => .absolute w
  | .incAbsX w => .absoluteX w
  | .decZp z => .zeroPage z
  | .decZpX z => .zeroPageX z
  | .decAbs w => .absolute w
  | .decAbsX w => .absoluteX w
  | .inx => .implied
  | .iny => .implied
  | .dex => .implied
  | .dey => .implied
  | .eorImm v => .immediate v
  | .eorZp z => .zeroPage z
  | .eorZpX z => .zeroPageX z
  | .eorAbs w => .absolute w
  | .eorAbsX w => .absoluteX w
  | .eorAbsY w => .absoluteY w
  | .eorIndX z => .indirectX z
  | .eorIndY z => .indirectY z
  | .andImm v => .immediate v
  | .andZp z => .zeroPage z
  | .andZpX z => .zeroPageX z
  | .andAbs w => .absolute w
  | .andAbsX w => .absoluteX w
  | .andAbsY w => .absoluteY w
  | .andIndX z => .indirectX z
  | .andIndY z => .indirectY z
  | .oraImm v => .immediate v
  | .oraZp z => .zeroPage z
  | .oraZpX z => .zeroPageX z
  | .oraAbs w => .absolute w
  | .oraAbsX w => .absoluteX w
  | .oraAbsY w => .absoluteY w
  | .oraIndX z => .indirectX z
  | .oraIndY z => .indirectY z
  | .bitZp z => .zeroPage z
  | .bitAbs w => .absolute w
  | .lsrA => .accumulator
  | .lsrZp z => .zeroPage z
  | .lsrZpX z => .zeroPageX z
  | .lsrAbs w => .absolute w
  | .lsrAbsX w => .absoluteX w
  | .aslA => .accumulator
  | .aslZp z => .zeroPage z
  | .aslZpX z => .zeroPageX z
  | .aslAbs w => .absolute w
  | .aslAbsX w => .absoluteX w
  | .rolA => .accumulator
  | .rolZp z => .zeroPage z
  | .rolZpX z => .zeroPageX z
  | .rolAbs w => .absolute w
  | .rolAbsX w => .absoluteX w
  | .rorA => .accumulator
  | .rorZp z => .zeroPage z
  | .rorZpX z => .zeroPageX z
  | .rorAbs w => .absolute w
  | .rorAbsX w => .absoluteX w
  | .ldaImm v => .immediate v
  | .ldaZp z => .zeroPage z
  | .ldaZpX z => .zeroPageX z
  | .ldaAbs w => .absolute w
  | .ldaAbsX w => .absoluteX w
  | .ldaAbsY w => .absoluteY w
  | .ldaIndX z => .indirectX z
  | .ldaIndY z => .indirectY z
  | .ldxImm v => .immediate v
  | .ldxZp z => .zeroPage z
  | .ldxZpY z => .zeroPageY z
  | .ldxAbs w => .absolute w
  | .ldxAbsY w => .absoluteY w
  | .ldyImm v => .immediate v
  | .ldyZp z => .zeroPage z
  | .ldyZpX z => .zeroPageX z
  | .ldyAbs w => .absolute w
  | .ldyAbsX w => .absoluteX w
  | .staZp z => .zeroPage z
  | .staZpX z => .zeroPageX z
  | .staAbs w => .absolute w
  | .staAbsX w => .absoluteX w
  | .staAbsY w => .absoluteY w
  | .staIndX z => .indirectX z
  | .staIndY z => .indirectY z
  | .stxZp z => .zeroPage z
  | .stxZpY z => .zeroPageY z
  | .stxAbs w => .absolute w
  | .styZp z => .zeroPage z
  | .styZpX z => .zeroPageX z
  | .styAbs w => .absolute w
  | .tax => .implied
  | .tay => .implied
  | .txa => .implied
  | .tya => .implied
  | .tsx => .implied
  | .txs => .implied
  | .pha => .implied
  | .php => .implied
  | .pla => .implied
  | .plp => .implied
  | .clc => .implied
  | .sec => .implied
  | .cli => .implied
  | .sei => .implied
  | .cld => .implied
  | .sed => .implied
  | .clv => .implied
  | .bpl off => .relative off
  | .bmi off => .relative off
  | .bvc off => .relative off
  | .bvs off => .relative off
  | .bcc off => .relative off
  | .bcs off => .relative off
  | .bne off => .relative off
  | .beq off => .relative off
  | .jmpAbs w => .absolute w
  | .jmpInd w => .indirect w
  | .jsr w => .absolute w
  | .rts => .implied
  | .brk => .implied
  | .rti => .implied
  | .nop => .implied

/-- A raw instruction term of the construction path (R83, R102): an operation, a mode and the operand bytes
in the order they follow the opcode. Unlike `Instr` it can be ill formed. -/
structure Term where
  operation : Operation
  mode : AddressMode
  bytes : List Byte
  deriving DecidableEq, Repr

end Sys2Proof
end

