-- ==== Sys2Proof/WellFormed.lean ====
section
/-! DEFINITION. Which raw terms are instructions: the (operation, mode) pairs of R102, transcribed from that
rule's table and not from the opcode map, and the number of operand bytes of R81. -/

namespace Sys2Proof

/-- The number of operand bytes after the opcode, by mode (R81; `bytesConsumed` of R85, D26). -/
def AddressMode.operandBytes : AddressMode → Nat
  | .implied | .accumulator => 0
  | .immediate | .zeroPage | .zeroPageX | .zeroPageY | .relative | .indirectX | .indirectY => 1
  | .absolute | .absoluteX | .absoluteY | .indirect => 2

/-- The modes an operation is defined with (R102). -/
def Operation.modes : Operation → List AddressMode
  | .adc | .and | .cmp | .eor | .lda | .ora | .sbc =>
    [.immediate, .zeroPage, .zeroPageX, .absolute, .absoluteX, .absoluteY, .indirectX, .indirectY]
  | .sta => [.zeroPage, .zeroPageX, .absolute, .absoluteX, .absoluteY, .indirectX, .indirectY]
  | .asl | .lsr | .rol | .ror => [.accumulator, .zeroPage, .zeroPageX, .absolute, .absoluteX]
  | .inc | .dec => [.zeroPage, .zeroPageX, .absolute, .absoluteX]
  | .ldx => [.immediate, .zeroPage, .zeroPageY, .absolute, .absoluteY]
  | .ldy => [.immediate, .zeroPage, .zeroPageX, .absolute, .absoluteX]
  | .stx => [.zeroPage, .zeroPageY, .absolute]
  | .sty => [.zeroPage, .zeroPageX, .absolute]
  | .cpx | .cpy => [.immediate, .zeroPage, .absolute]
  | .bit => [.zeroPage, .absolute]
  | .jmp => [.absolute, .indirect]
  | .jsr => [.absolute]
  | .bcc | .bcs | .beq | .bmi | .bne | .bpl | .bvc | .bvs => [.relative]
  | .brk | .clc | .cld | .cli | .clv | .dex | .dey | .inx | .iny | .nop | .pha | .php | .pla | .plp | .rti | .rts
  | .sec | .sed | .sei | .tax | .tay | .tsx | .txa | .txs | .tya => [.implied]

/-- Why a raw term is no instruction. -/
inductive TermError where
  /-- The pair is "absent from the real instruction set": the ConfigurationError of R232. -/
  | undefinedPair (op : Operation) (mode : AddressMode)
  /-- The mode takes another number of operand bytes (R81). -/
  | wrongOperandBytes (mode : AddressMode) (given : Nat)
  deriving DecidableEq, Repr

/-- What is wrong with a term, if anything: first its pair (R102), then its operand bytes (R81). -/
def Term.problem (t : Term) : Option TermError :=
  if t.mode ∉ t.operation.modes then some (.undefinedPair t.operation t.mode)
  else if t.bytes.length ≠ t.mode.operandBytes then some (.wrongOperandBytes t.mode t.bytes.length)
  else none

/-- A term is an instruction when nothing is wrong with it. -/
abbrev Term.WellFormed (t : Term) : Prop := t.problem = none

end Sys2Proof
end

