-- ==== Sys2Proof/Decode.lean ====
section
/-! DEFINITION. The opcode table (R83, R99), decoding from bytes (R100, R101), total and rejecting by name, and the
encoder, both written over the one table. The bit-field and byte-order helpers they use stand here. -/

namespace Sys2Proof

/-- `hi(w)`, the high byte of a Word (R11). -/
def hi (w : Word) : Byte := w.extractLsb' 8 8

/-- `lo(w)`, the low byte of a Word (R11). -/
def lo (w : Word) : Byte := w.extractLsb' 0 8

/-- `h ++ l`: the Word `h * 256 + l` (R11). -/
def concat (h l : Byte) : Word := h ++ l

/-- An instruction's length in bytes, fixed by its mode: the opcode and the operand bytes (R80, R81). -/
def AddressMode.length (m : AddressMode) : Nat := 1 + m.operandBytes

/-- The length of an instruction with this operand. -/
def Operand.length (o : Operand) : Nat := o.mode.length

/-- The operand bytes in the order they follow the opcode: a Word is little-endian (R56, R81). -/
def Operand.bytes : Operand → List Byte
  | .implied | .accumulator => []
  | .immediate v | .zeroPage v | .zeroPageX v | .zeroPageY v | .indirectX v | .indirectY v | .relative v => [v]
  | .absolute w | .absoluteX w | .absoluteY w | .indirect w => [lo w, hi w]

/-- How a row makes its instruction from the operand bytes that follow the opcode. -/
inductive Build where
  | bare (i : Instr)
  | withByte (f : Byte → Instr)
  | withWord (f : Word → Instr)

/-- A row of the opcode table: "{Operation, AddressMode, encoded byte, instruction length, base cycle count}"
(R83), and the instruction it stands for. -/
structure OpcodeRow where
  byte : Byte
  operation : Operation
  mode : AddressMode
  length : Nat
  base : Nat
  build : Build

/-- Row 0x of the map of R99, with lengths and base cycles of `spec/opcode_table.json`. -/
def opcodeRow0x : List OpcodeRow := [
  ⟨0x00, .brk, .implied, 1, 7, .bare .brk⟩,
  ⟨0x01, .ora, .indirectX, 2, 6, .withByte .oraIndX⟩,
  ⟨0x05, .ora, .zeroPage, 2, 3, .withByte .oraZp⟩,
  ⟨0x06, .asl, .zeroPage, 2, 5, .withByte .aslZp⟩,
  ⟨0x08, .php, .implied, 1, 3, .bare .php⟩,
  ⟨0x09, .ora, .immediate, 2, 2, .withByte .oraImm⟩,
  ⟨0x0A, .asl, .accumulator, 1, 2, .bare .aslA⟩,
  ⟨0x0D, .ora, .absolute, 3, 4, .withWord .oraAbs⟩,
  ⟨0x0E, .asl, .absolute, 3, 6, .withWord .aslAbs⟩]

/-- Row 1x of the map of R99, with lengths and base cycles of `spec/opcode_table.json`. -/
def opcodeRow1x : List OpcodeRow := [
  ⟨0x10, .bpl, .relative, 2, 2, .withByte .bpl⟩,
  ⟨0x11, .ora, .indirectY, 2, 5, .withByte .oraIndY⟩,
  ⟨0x15, .ora, .zeroPageX, 2, 4, .withByte .oraZpX⟩,
  ⟨0x16, .asl, .zeroPageX, 2, 6, .withByte .aslZpX⟩,
  ⟨0x18, .clc, .implied, 1, 2, .bare .clc⟩,
  ⟨0x19, .ora, .absoluteY, 3, 4, .withWord .oraAbsY⟩,
  ⟨0x1D, .ora, .absoluteX, 3, 4, .withWord .oraAbsX⟩,
  ⟨0x1E, .asl, .absoluteX, 3, 7, .withWord .aslAbsX⟩]

/-- Row 2x of the map of R99, with lengths and base cycles of `spec/opcode_table.json`. -/
def opcodeRow2x : List OpcodeRow := [
  ⟨0x20, .jsr, .absolute, 3, 6, .withWord .jsr⟩,
  ⟨0x21, .and, .indirectX, 2, 6, .withByte .andIndX⟩,
  ⟨0x24, .bit, .zeroPage, 2, 3, .withByte .bitZp⟩,
  ⟨0x25, .and, .zeroPage, 2, 3, .withByte .andZp⟩,
  ⟨0x26, .rol, .zeroPage, 2, 5, .withByte .rolZp⟩,
  ⟨0x28, .plp, .implied, 1, 4, .bare .plp⟩,
  ⟨0x29, .and, .immediate, 2, 2, .withByte .andImm⟩,
  ⟨0x2A, .rol, .accumulator, 1, 2, .bare .rolA⟩,
  ⟨0x2C, .bit, .absolute, 3, 4, .withWord .bitAbs⟩,
  ⟨0x2D, .and, .absolute, 3, 4, .withWord .andAbs⟩,
  ⟨0x2E, .rol, .absolute, 3, 6, .withWord .rolAbs⟩]

/-- Row 3x of the map of R99, with lengths and base cycles of `spec/opcode_table.json`. -/
def opcodeRow3x : List OpcodeRow := [
  ⟨0x30, .bmi, .relative, 2, 2, .withByte .bmi⟩,
  ⟨0x31, .and, .indirectY, 2, 5, .withByte .andIndY⟩,
  ⟨0x35, .and, .zeroPageX, 2, 4, .withByte .andZpX⟩,
  ⟨0x36, .rol, .zeroPageX, 2, 6, .withByte .rolZpX⟩,
  ⟨0x38, .sec, .implied, 1, 2, .bare .sec⟩,
  ⟨0x39, .and, .absoluteY, 3, 4, .withWord .andAbsY⟩,
  ⟨0x3D, .and, .absoluteX, 3, 4, .withWord .andAbsX⟩,
  ⟨0x3E, .rol, .absoluteX, 3, 7, .withWord .rolAbsX⟩]

/-- Row 4x of the map of R99, with lengths and base cycles of `spec/opcode_table.json`. -/
def opcodeRow4x : List OpcodeRow := [
  ⟨0x40, .rti, .implied, 1, 6, .bare .rti⟩,
  ⟨0x41, .eor, .indirectX, 2, 6, .withByte .eorIndX⟩,
  ⟨0x45, .eor, .zeroPage, 2, 3, .withByte .eorZp⟩,
  ⟨0x46, .lsr, .zeroPage, 2, 5, .withByte .lsrZp⟩,
  ⟨0x48, .pha, .implied, 1, 3, .bare .pha⟩,
  ⟨0x49, .eor, .immediate, 2, 2, .withByte .eorImm⟩,
  ⟨0x4A, .lsr, .accumulator, 1, 2, .bare .lsrA⟩,
  ⟨0x4C, .jmp, .absolute, 3, 3, .withWord .jmpAbs⟩,
  ⟨0x4D, .eor, .absolute, 3, 4, .withWord .eorAbs⟩,
  ⟨0x4E, .lsr, .absolute, 3, 6, .withWord .lsrAbs⟩]

/-- Row 5x of the map of R99, with lengths and base cycles of `spec/opcode_table.json`. -/
def opcodeRow5x : List OpcodeRow := [
  ⟨0x50, .bvc, .relative, 2, 2, .withByte .bvc⟩,
  ⟨0x51, .eor, .indirectY, 2, 5, .withByte .eorIndY⟩,
  ⟨0x55, .eor, .zeroPageX, 2, 4, .withByte .eorZpX⟩,
  ⟨0x56, .lsr, .zeroPageX, 2, 6, .withByte .lsrZpX⟩,
  ⟨0x58, .cli, .implied, 1, 2, .bare .cli⟩,
  ⟨0x59, .eor, .absoluteY, 3, 4, .withWord .eorAbsY⟩,
  ⟨0x5D, .eor, .absoluteX, 3, 4, .withWord .eorAbsX⟩,
  ⟨0x5E, .lsr, .absoluteX, 3, 7, .withWord .lsrAbsX⟩]

/-- Row 6x of the map of R99, with lengths and base cycles of `spec/opcode_table.json`. -/
def opcodeRow6x : List OpcodeRow := [
  ⟨0x60, .rts, .implied, 1, 6, .bare .rts⟩,
  ⟨0x61, .adc, .indirectX, 2, 6, .withByte .adcIndX⟩,
  ⟨0x65, .adc, .zeroPage, 2, 3, .withByte .adcZp⟩,
  ⟨0x66, .ror, .zeroPage, 2, 5, .withByte .rorZp⟩,
  ⟨0x68, .pla, .implied, 1, 4, .bare .pla⟩,
  ⟨0x69, .adc, .immediate, 2, 2, .withByte .adcImm⟩,
  ⟨0x6A, .ror, .accumulator, 1, 2, .bare .rorA⟩,
  ⟨0x6C, .jmp, .indirect, 3, 5, .withWord .jmpInd⟩,
  ⟨0x6D, .adc, .absolute, 3, 4, .withWord .adcAbs⟩,
  ⟨0x6E, .ror, .absolute, 3, 6, .withWord .rorAbs⟩]

/-- Row 7x of the map of R99, with lengths and base cycles of `spec/opcode_table.json`. -/
def opcodeRow7x : List OpcodeRow := [
  ⟨0x70, .bvs, .relative, 2, 2, .withByte .bvs⟩,
  ⟨0x71, .adc, .indirectY, 2, 5, .withByte .adcIndY⟩,
  ⟨0x75, .adc, .zeroPageX, 2, 4, .withByte .adcZpX⟩,
  ⟨0x76, .ror, .zeroPageX, 2, 6, .withByte .rorZpX⟩,
  ⟨0x78, .sei, .implied, 1, 2, .bare .sei⟩,
  ⟨0x79, .adc, .absoluteY, 3, 4, .withWord .adcAbsY⟩,
  ⟨0x7D, .adc, .absoluteX, 3, 4, .withWord .adcAbsX⟩,
  ⟨0x7E, .ror, .absoluteX, 3, 7, .withWord .rorAbsX⟩]

/-- Row 8x of the map of R99, with lengths and base cycles of `spec/opcode_table.json`. -/
def opcodeRow8x : List OpcodeRow := [
  ⟨0x81, .sta, .indirectX, 2, 6, .withByte .staIndX⟩,
  ⟨0x84, .sty, .zeroPage, 2, 3, .withByte .styZp⟩,
  ⟨0x85, .sta, .zeroPage, 2, 3, .withByte .staZp⟩,
  ⟨0x86, .stx, .zeroPage, 2, 3, .withByte .stxZp⟩,
  ⟨0x88, .dey, .implied, 1, 2, .bare .dey⟩,
  ⟨0x8A, .txa, .implied, 1, 2, .bare .txa⟩,
  ⟨0x8C, .sty, .absolute, 3, 4, .withWord .styAbs⟩,
  ⟨0x8D, .sta, .absolute, 3, 4, .withWord .staAbs⟩,
  ⟨0x8E, .stx, .absolute, 3, 4, .withWord .stxAbs⟩]

/-- Row 9x of the map of R99, with lengths and base cycles of `spec/opcode_table.json`. -/
def opcodeRow9x : List OpcodeRow := [
  ⟨0x90, .bcc, .relative, 2, 2, .withByte .bcc⟩,
  ⟨0x91, .sta, .indirectY, 2, 6, .withByte .staIndY⟩,
  ⟨0x94, .sty, .zeroPageX, 2, 4, .withByte .styZpX⟩,
  ⟨0x95, .sta, .zeroPageX, 2, 4, .withByte .staZpX⟩,
  ⟨0x96, .stx, .zeroPageY, 2, 4, .withByte .stxZpY⟩,
  ⟨0x98, .tya, .implied, 1, 2, .bare .tya⟩,
  ⟨0x99, .sta, .absoluteY, 3, 5, .withWord .staAbsY⟩,
  ⟨0x9A, .txs, .implied, 1, 2, .bare .txs⟩,
  ⟨0x9D, .sta, .absoluteX, 3, 5, .withWord .staAbsX⟩]

/-- Row Ax of the map of R99, with lengths and base cycles of `spec/opcode_table.json`. -/
def opcodeRowAx : List OpcodeRow := [
  ⟨0xA0, .ldy, .immediate, 2, 2, .withByte .ldyImm⟩,
  ⟨0xA1, .lda, .indirectX, 2, 6, .withByte .ldaIndX⟩,
  ⟨0xA2, .ldx, .immediate, 2, 2, .withByte .ldxImm⟩,
  ⟨0xA4, .ldy, .zeroPage, 2, 3, .withByte .ldyZp⟩,
  ⟨0xA5, .lda, .zeroPage, 2, 3, .withByte .ldaZp⟩,
  ⟨0xA6, .ldx, .zeroPage, 2, 3, .withByte .ldxZp⟩,
  ⟨0xA8, .tay, .implied, 1, 2, .bare .tay⟩,
  ⟨0xA9, .lda, .immediate, 2, 2, .withByte .ldaImm⟩,
  ⟨0xAA, .tax, .implied, 1, 2, .bare .tax⟩,
  ⟨0xAC, .ldy, .absolute, 3, 4, .withWord .ldyAbs⟩,
  ⟨0xAD, .lda, .absolute, 3, 4, .withWord .ldaAbs⟩,
  ⟨0xAE, .ldx, .absolute, 3, 4, .withWord .ldxAbs⟩]

/-- Row Bx of the map of R99, with lengths and base cycles of `spec/opcode_table.json`. -/
def opcodeRowBx : List OpcodeRow := [
  ⟨0xB0, .bcs, .relative, 2, 2, .withByte .bcs⟩,
  ⟨0xB1, .lda, .indirectY, 2, 5, .withByte .ldaIndY⟩,
  ⟨0xB4, .ldy, .zeroPageX, 2, 4, .withByte .ldyZpX⟩,
  ⟨0xB5, .lda, .zeroPageX, 2, 4, .withByte .ldaZpX⟩,
  ⟨0xB6, .ldx, .zeroPageY, 2, 4, .withByte .ldxZpY⟩,
  ⟨0xB8, .clv, .implied, 1, 2, .bare .clv⟩,
  ⟨0xB9, .lda, .absoluteY, 3, 4, .withWord .ldaAbsY⟩,
  ⟨0xBA, .tsx, .implied, 1, 2, .bare .tsx⟩,
  ⟨0xBC, .ldy, .absoluteX, 3, 4, .withWord .ldyAbsX⟩,
  ⟨0xBD, .lda, .absoluteX, 3, 4, .withWord .ldaAbsX⟩,
  ⟨0xBE, .ldx, .absoluteY, 3, 4, .withWord .ldxAbsY⟩]

/-- Row Cx of the map of R99, with lengths and base cycles of `spec/opcode_table.json`. -/
def opcodeRowCx : List OpcodeRow := [
  ⟨0xC0, .cpy, .immediate, 2, 2, .withByte .cpyImm⟩,
  ⟨0xC1, .cmp, .indirectX, 2, 6, .withByte .cmpIndX⟩,
  ⟨0xC4, .cpy, .zeroPage, 2, 3, .withByte .cpyZp⟩,
  ⟨0xC5, .cmp, .zeroPage, 2, 3, .withByte .cmpZp⟩,
  ⟨0xC6, .dec, .zeroPage, 2, 5, .withByte .decZp⟩,
  ⟨0xC8, .iny, .implied, 1, 2, .bare .iny⟩,
  ⟨0xC9, .cmp, .immediate, 2, 2, .withByte .cmpImm⟩,
  ⟨0xCA, .dex, .implied, 1, 2, .bare .dex⟩,
  ⟨0xCC, .cpy, .absolute, 3, 4, .withWord .cpyAbs⟩,
  ⟨0xCD, .cmp, .absolute, 3, 4, .withWord .cmpAbs⟩,
  ⟨0xCE, .dec, .absolute, 3, 6, .withWord .decAbs⟩]

/-- Row Dx of the map of R99, with lengths and base cycles of `spec/opcode_table.json`. -/
def opcodeRowDx : List OpcodeRow := [
  ⟨0xD0, .bne, .relative, 2, 2, .withByte .bne⟩,
  ⟨0xD1, .cmp, .indirectY, 2, 5, .withByte .cmpIndY⟩,
  ⟨0xD5, .cmp, .zeroPageX, 2, 4, .withByte .cmpZpX⟩,
  ⟨0xD6, .dec, .zeroPageX, 2, 6, .withByte .decZpX⟩,
  ⟨0xD8, .cld, .implied, 1, 2, .bare .cld⟩,
  ⟨0xD9, .cmp, .absoluteY, 3, 4, .withWord .cmpAbsY⟩,
  ⟨0xDD, .cmp, .absoluteX, 3, 4, .withWord .cmpAbsX⟩,
  ⟨0xDE, .dec, .absoluteX, 3, 7, .withWord .decAbsX⟩]

/-- Row Ex of the map of R99, with lengths and base cycles of `spec/opcode_table.json`. -/
def opcodeRowEx : List OpcodeRow := [
  ⟨0xE0, .cpx, .immediate, 2, 2, .withByte .cpxImm⟩,
  ⟨0xE1, .sbc, .indirectX, 2, 6, .withByte .sbcIndX⟩,
  ⟨0xE4, .cpx, .zeroPage, 2, 3, .withByte .cpxZp⟩,
  ⟨0xE5, .sbc, .zeroPage, 2, 3, .withByte .sbcZp⟩,
  ⟨0xE6, .inc, .zeroPage, 2, 5, .withByte .incZp⟩,
  ⟨0xE8, .inx, .implied, 1, 2, .bare .inx⟩,
  ⟨0xE9, .sbc, .immediate, 2, 2, .withByte .sbcImm⟩,
  ⟨0xEA, .nop, .implied, 1, 2, .bare .nop⟩,
  ⟨0xEC, .cpx, .absolute, 3, 4, .withWord .cpxAbs⟩,
  ⟨0xED, .sbc, .absolute, 3, 4, .withWord .sbcAbs⟩,
  ⟨0xEE, .inc, .absolute, 3, 6, .withWord .incAbs⟩]

/-- Row Fx of the map of R99, with lengths and base cycles of `spec/opcode_table.json`. -/
def opcodeRowFx : List OpcodeRow := [
  ⟨0xF0, .beq, .relative, 2, 2, .withByte .beq⟩,
  ⟨0xF1, .sbc, .indirectY, 2, 5, .withByte .sbcIndY⟩,
  ⟨0xF5, .sbc, .zeroPageX, 2, 4, .withByte .sbcZpX⟩,
  ⟨0xF6, .inc, .zeroPageX, 2, 6, .withByte .incZpX⟩,
  ⟨0xF8, .sed, .implied, 1, 2, .bare .sed⟩,
  ⟨0xF9, .sbc, .absoluteY, 3, 4, .withWord .sbcAbsY⟩,
  ⟨0xFD, .sbc, .absoluteX, 3, 4, .withWord .sbcAbsX⟩,
  ⟨0xFE, .inc, .absoluteX, 3, 7, .withWord .incAbsX⟩]

/-- The opcode table: the 151 rows of R99. -/
def opcodeTable : List OpcodeRow :=
  opcodeRow0x ++ opcodeRow1x ++ opcodeRow2x ++ opcodeRow3x ++ opcodeRow4x ++ opcodeRow5x ++ opcodeRow6x ++ opcodeRow7x
    ++ opcodeRow8x ++ opcodeRow9x ++ opcodeRowAx ++ opcodeRowBx ++ opcodeRowCx ++ opcodeRowDx ++ opcodeRowEx ++ opcodeRowFx

/-- `find(byte)`: the row of an opcode byte, none for the 105 undefined bytes (R100). -/
def findByte (b : Byte) : Option OpcodeRow := opcodeTable.find? (fun r => r.byte == b)

/-- `find(operation, mode)`: the row of a pair, none for a pair outside R102. -/
def findPair (op : Operation) (m : AddressMode) : Option OpcodeRow :=
  opcodeTable.find? (fun r => decide (r.operation = op) && decide (r.mode = m))

/-- Why a list of bytes does not begin with an instruction. -/
inductive DecodeReject where
  /-- The list is empty. -/
  | empty
  /-- The opcode has no table entry (R100). -/
  | undefinedOpcode (b : Byte)
  /-- The list ends before the operand bytes of this opcode (R81). -/
  | truncated (b : Byte)
  deriving DecidableEq, Repr

/-- The instruction a row makes of the bytes after the opcode, and the bytes it leaves. -/
def OpcodeRow.take (r : OpcodeRow) (bytes : List Byte) : Except DecodeReject (Instr × List Byte) :=
  match r.build, bytes with
  | .bare i, rest => .ok (i, rest)
  | .withByte f, v :: rest => .ok (f v, rest)
  | .withWord f, l :: h :: rest => .ok (f (concat h l), rest)
  | _, _ => .error (.truncated r.byte)

/-- Decoding: the opcode byte is looked up whole (R82), then exactly `length - 1` further bytes are read (R101). -/
def decode : List Byte → Except DecodeReject (Instr × List Byte)
  | [] => .error .empty
  | op :: rest =>
    match findByte op with
    | none => .error (.undefinedOpcode op)
    | some r => r.take rest

/-- The raw term an instruction stands for. -/
def Instr.term (i : Instr) : Term := ⟨i.operation, i.operand.mode, i.operand.bytes⟩

/-- An instruction is well formed when its term is (R102, R81). -/
abbrev Instr.WellFormed (i : Instr) : Prop := i.term.WellFormed

/-- The table row of an instruction (R102). -/
def Instr.row (i : Instr) : Option OpcodeRow := findPair i.operation i.operand.mode

/-- The base cycle count of an instruction, from its table row (R83). -/
def Instr.base (i : Instr) : Nat := (i.row.map OpcodeRow.base).getD 0

/-- The length in bytes of an instruction, from its table row (R83). -/
def Instr.length (i : Instr) : Nat := (i.row.map OpcodeRow.length).getD 0

/-- The bytes of an instruction: the opcode its pair has in the table, then the operand bytes (R80, R83). -/
def encode (i : Instr) : List Byte :=
  match i.row with
  | some r => r.byte :: i.operand.bytes
  | none => []

/-- The three bytes of a number, least significant first; an instruction is at most three bytes long (R80). -/
def wordBytes (w : Nat) : List Byte :=
  [BitVec.ofNat 8 w, BitVec.ofNat 8 (w / 256), BitVec.ofNat 8 (w / 65536)]

/-- The instruction the decoder reads from an instruction whose bits are `w`, numbered as
`spec/opcode_table.json` numbers them; every bit above `nbits` is 0. -/
def decodeTableWord (nbits w : Nat) : Option Instr :=
  match decode (wordBytes (w % 2 ^ nbits)) with
  | .ok (i, _) => some i
  | .error _ => none

/-- The table lookup of a raw term: the well-formed ones give their instruction (R102). -/
def Term.instr (t : Term) : Except TermError Instr :=
  match t.problem with
  | some e => .error e
  | none =>
    match findPair t.operation t.mode with
    | none => .error (.undefinedPair t.operation t.mode)
    | some r =>
      match r.take t.bytes with
      | .ok (i, _) => .ok i
      | .error _ => .error (.wrongOperandBytes t.mode t.bytes.length)

end Sys2Proof
end

