-- ==== Sys2Proof/Machine/State.lean ====
section
/-! DEFINITION. The state of the machine as plain data: the registers of R20, the cycle counter of R35, the
lifecycle of R36, the bus of R50 to R53 with its history, and the parameters of R10; the reasons a step can stop;
and the state after power-on. -/

namespace Sys2Proof.Machine

/-- What the bus does at a read of an address (R51, R53). -/
inductive ReadRule where
  /-- The byte the memory holds. -/
  | cells
  /-- A device register, a mirror, open bus: any byte (the free value `Config.busByte`). -/
  | device
  /-- As `device`, but the bus may raise an error instead (the free value `Config.busReadError`). -/
  | fallible
  /-- The bus raises this error. -/
  | raises (e : Nat)
  deriving DecidableEq, Repr

/-- What the bus does at a write to an address (R52, R53). -/
inductive WriteRule where
  /-- The memory holds the byte from then on. -/
  | cells
  /-- The memory is unchanged: ROM "that ignores writes", or a device, which sees the write in the history. -/
  | absorbed
  /-- As `absorbed`, but the bus may raise an error instead (the free value `Config.busWriteError`); the memory is
  unchanged either way. DESIGN CHOICE (log entry 15). -/
  | fallible
  /-- The bus raises this error; the memory is unchanged. DESIGN CHOICE (log entry 15). -/
  | raises (e : Nat)
  deriving DecidableEq, Repr

/-- A window of the memory map: what the bus does at `size` addresses from `base` on. -/
structure Window where
  base : Nat
  size : Nat
  onRead : ReadRule
  onWrite : WriteRule
  deriving DecidableEq, Repr

/-- The bus: "a shared, externally owned resource" (R53). `cells` is the byte-wide memory in canonical form
(`Memory.wf`), `windows` the memory map (the first window that holds an address decides; an address in no window is
open bus), `log` the accesses made so far, newest first (R54). DESIGN CHOICE (log entries 3 and 4). -/
structure Bus where
  cells : List Host.Cell
  windows : List Window
  log : List BusAccess
  deriving DecidableEq, Repr

/-- Why the core is Faulted (R235). -/
inductive FaultReason where
  /-- The undefined opcode byte and the address it was fetched from (R231). -/
  | decodeError (byte : Byte) (addr : Word)
  /-- The error the bus raised, not translated (R233). -/
  | busError (e : Nat)
  deriving DecidableEq, Repr

/-- The lifecycle state of the core (R36). -/
inductive Lifecycle where
  | unpowered
  | running
  | faulted (r : FaultReason)
  deriving DecidableEq, Repr

/-- The state of the machine. -/
structure State where
  /-- The accumulator (R21). -/
  a : Byte
  /-- The index register X (R22). -/
  x : Byte
  /-- The index register Y (R22). -/
  y : Byte
  /-- The stack pointer, within the stack page (R23). -/
  sp : Byte
  /-- The status register, NVUBDIZC from bit 7 down (R25); its bits are read and written through `Flags.lean`. -/
  p : Byte
  /-- The program counter: during a step, the address of the opcode byte (R24). -/
  pc : Word
  /-- The elapsed-cycle counter, unbounded (R35). -/
  cycles : Nat
  /-- The lifecycle state (R36). -/
  mode : Lifecycle
  /-- The bus the core is attached to (R50 to R53). -/
  bus : Bus
  /-- The parameters of R10, which no step changes. -/
  params : Params
  deriving DecidableEq, Repr

/-- The errors that end a step and stop the machine (R230). Each carries the state the error leaves (R236): the
registers, flags, PC and cycles of before the step, the accesses already made, and the lifecycle state after it.
DESIGN CHOICE (log entry 5), safe. -/
inductive Fault where
  /-- Raised by `step` when the byte at PC is no opcode (R231). Safe: the core itself stops here. -/
  | decodeError (byte : Byte) (addr : Word) (left : State)
  /-- Raised by `step`, by every meaning that accesses the bus, and by `power`, when the bus raises an error (R233,
  R260). Safe: the core itself stops here. -/
  | busError (e : Nat) (left : State)
  deriving DecidableEq, Repr

/-- The ways a call has no meaning. -/
inductive Refusal where
  /-- The instruction of this mnemonic has no meaning in the model; raised by no arm of `exec`. Safe. -/
  | notModelled (mnemonic : String)
  /-- `step` or a read accessor of a core that is not Running (R234, R235); raised by `step` and the accessors
  of `HostSurface.lean`. Safe: the spec gives such a call no meaning. -/
  | notPowered
  /-- The ConfigurationError of R232: a (operation, mode) pair the instruction set does not have; raised by the
  construction path in `Assembler.lean`, never by `step`. Safe. -/
  | configurationError (op : Operation) (mode : AddressMode)
  /-- An operand or a label the assembler cannot encode (R98); raised in `Assembler.lean` only. Safe. -/
  | operandOutOfRange
  /-- `Load` of no operand, or `Store` through an immediate, which have no case (R97); no instruction of the table
  reaches it. Safe. -/
  | illegalOperand
  deriving DecidableEq, Repr

/-- The bus of the test fixture: a plain 64 KiB RAM that lists nothing (R68, D22). DESIGN CHOICE (log entry 2). -/
def Bus.ram : Bus where
  cells := []
  windows := [⟨0, 65536, .cells, .cells⟩]
  log := []

/-- A core on the given bus before its first `power()` (R36). Its registers hold no value (R37): the accessors and
`step` refuse to read them, and `power` overwrites all of them, so the bytes here are never seen (log entry 6). -/
def State.unpowered (bus : Bus) (params : Params) : State where
  a := 0
  x := 0
  y := 0
  sp := 0
  p := 0
  pc := 0
  cycles := 0
  mode := .unpowered
  bus := bus
  params := params

/-- The machine right after power-on (R261): the registers zero, P = 0x04, the cycle counter 0, Running; PC from the
reset vector of the fixture bus, whose unlisted bytes read 0x00; the two vector reads of R260 are in the
history. -/
def State.reset : State where
  a := 0x00
  x := 0x00
  y := 0x00
  sp := 0x00
  p := 0x04
  pc := 0x0000
  cycles := 0
  mode := .running
  bus :=
    { cells := []
      windows := [⟨0, 65536, .cells, .cells⟩]
      log := [.read 0xFFFD 0x00, .read 0xFFFC 0x00] }
  params := Params.hardware

end Sys2Proof.Machine
end

