-- ==== Sys2Proof/Machine/Flags.lean ====
section
/-! DEFINITION. The status register P: the bit layout of R25, the four operations of R34, and every flag
computation the instruction rules share. -/

namespace Sys2Proof.Machine

/-- The eight named bits of P (R25); `b` and `u` are the placeholder bits 4 and 5. -/
inductive Flag where
  | c | z | i | d | b | u | v | n
  deriving DecidableEq, Repr

/-- The bit position of a flag (R25). -/
def Flag.bit : Flag → Nat
  | .c => 0
  | .z => 1
  | .i => 2
  | .d => 3
  | .b => 4
  | .u => 5
  | .v => 6
  | .n => 7

/-- The byte with only this flag's bit set. -/
def Flag.mask (f : Flag) : Byte := 1#8 <<< f.bit

/-- `test(flag)` (R34). -/
def testFlag (p : Byte) (f : Flag) : Bool := p.getLsbD f.bit

/-- `set(flag)` (R34). -/
def setFlag (p : Byte) (f : Flag) : Byte := p ||| f.mask

/-- `clear(flag)` (R34). -/
def clearFlag (p : Byte) (f : Flag) : Byte := p &&& ~~~ f.mask

/-- `P.f <- v`: set or clear, as `v` says. -/
def writeFlag (p : Byte) (f : Flag) (v : Bool) : Byte := if v then setFlag p f else clearFlag p f

/-- `force(flags)`: the bulk replacement of all eight bits (R34). -/
def forceFlags (_p flags : Byte) : Byte := flags

/-- A flag of the state. -/
def State.flag (s : State) (f : Flag) : Bool := testFlag s.p f

/-- `setZN(v)` (R15): Z from `v == 0`, N from bit 7 of `v`. -/
def setZN (p v : Byte) : Byte := writeFlag (writeFlag p .z (v == 0)) .n (v.getLsbD 7)

/-- The placeholder bits 4 and 5 of P (R30). -/
def placeholders : Byte := 0x30

/-- The copy of P that PHP and BRK push: bits 4 and 5 forced to 1 (R30, D9, D11). -/
def pushedStatus (p : Byte) : Byte := p ||| placeholders

/-- P after PLP or RTI pulled `v`: bits 4 and 5 kept, the others from `v` (R193, R223, D10). -/
def pulledStatus (p v : Byte) : Byte := (v &&& ~~~ placeholders) ||| (p &&& placeholders)

/-- The compare function's flags (R131): C from unsigned `t >= m`, Z from equality, N from bit 7 of `t - m`. -/
def compareFlags (p t m : Byte) : Byte :=
  writeFlag (writeFlag (writeFlag p .c (decide (m.toNat ≤ t.toNat))) .z (t == m)) .n ((t - m).getLsbD 7)

/-- The exact 9-bit sum of add-with-carry (R132). -/
def carrySum (a m : Byte) (c : Bool) : Nat := a.toNat + m.toNat + c.toNat

/-- The truncated result of add-with-carry (R132): `s[7:0]`. -/
def sumByte (a m : Byte) (c : Bool) : Byte := BitVec.ofNat 8 (carrySum a m c)

/-- The carry of add-with-carry (R132): `s[8]`. -/
def sumCarry (a m : Byte) (c : Bool) : Bool := decide (256 ≤ carrySum a m c)

/-- The overflow of add-with-carry (R132): the signs of A and the operand agree and differ from the result's. -/
def sumOverflow (a m : Byte) (c : Bool) : Bool :=
  (a.getLsbD 7 == m.getLsbD 7) && ((sumByte a m c).getLsbD 7 != a.getLsbD 7)

/-- P after an add-with-carry (R132). -/
def sumFlags (p a m : Byte) (c : Bool) : Byte :=
  setZN (writeFlag (writeFlag p .c (sumCarry a m c)) .v (sumOverflow a m c)) (sumByte a m c)

/-- P after a shift or rotate with this result and this bit shifted out (R161 to R164). -/
def shiftFlags (p : Byte) (out : Bool) (r : Byte) : Byte := setZN (writeFlag p .c out) r

/-- P after BIT (R153): Z from `A AND M`, V and N from bits 6 and 7 of M. -/
def bitFlags (p a m : Byte) : Byte :=
  writeFlag (writeFlag (writeFlag p .z ((a &&& m) == 0)) .v (m.getLsbD 6)) .n (m.getLsbD 7)

end Sys2Proof.Machine
end

