-- ==== Sys2Proof/Machine/Memory.lean ====
section
/-! DEFINITION. The byte-wide memory behind the bus (R9, R50): a list of (address, byte) pairs in one canonical
form, its read and its write, and the canonical form as a check. -/

namespace Sys2Proof.Machine

/-- What an address the memory does not list reads as. DESIGN CHOICE (log entry 1), the convention of the test
vectors: "unlisted bytes are 0x00". -/
def unlistedByte : Byte := 0x00

/-- The byte the memory holds at an address. -/
def cellAt : List Host.Cell → Nat → Byte
  | [], _ => unlistedByte
  | (k, w) :: rest, a => if k = a then w else cellAt rest a

/-- The memory with a byte at an address, in canonical form. -/
def setCell : List Host.Cell → Nat → Byte → List Host.Cell
  | [], a, v => if v = unlistedByte then [] else [(a, v)]
  | (k, w) :: rest, a, v =>
    if a < k then (if v = unlistedByte then (k, w) :: rest else (a, v) :: (k, w) :: rest)
    else if a = k then (if v = unlistedByte then rest else (a, v) :: rest)
    else (k, w) :: setCell rest a v

/-- The pairs rise strictly from `least` on, lie in the 65,536 addresses of R50, and none holds `unlistedByte`. -/
def cellsFrom (least : Nat) : List Host.Cell → Bool
  | [] => true
  | (k, w) :: rest => decide (least ≤ k) && decide (k < 65536) && (w != unlistedByte) && cellsFrom (k + 1) rest

/-- The canonical form of the memory. -/
def Memory.wf (cells : List Host.Cell) : Bool := cellsFrom 0 cells

end Sys2Proof.Machine
end

