-- ==== Sys2Proof/Machine/Ops.lean ====
section
/-! DEFINITION. The named operations over the bus, the registers and the stack; the end of a step (PC, cycles, and
the outcome of a raised step); the software trap and the return from it; the power-on sequence. -/

namespace Sys2Proof.Machine

/-- `zext_16(b)` (R12). -/
def zext (b : Byte) : Word := b.setWidth 16

/-- `sext_16(b)` (R12). -/
def sext (b : Byte) : Word := b.signExtend 16

/-! The bus (R50 to R59). -/

/-- What a piece of a step that accesses the bus answers: a value, or the error the bus raised (R233), each with the
bus as the accesses made so far leave it (R236); or no case at all, for a `Load` or `Store` that R97 does not have. -/
inductive BusResult (α : Type) where
  | ok (v : α) (b : Bus)
  | raised (e : Nat) (b : Bus)
  | noCase
  deriving DecidableEq, Repr

/-- First `r`, then `k`; a raised error ends the step at once (R233: "no later access of the step is made"). -/
def BusResult.andThen {α β : Type} (r : BusResult α) (k : α → Bus → BusResult β) : BusResult β :=
  match r with
  | .ok v b => k v b
  | .raised e b => .raised e b
  | .noCase => .noCase

/-- Whether a window holds an address. -/
def Window.holds (w : Window) (a : Word) : Bool := decide (w.base ≤ a.toNat) && decide (a.toNat < w.base + w.size)

/-- The rule for reads of an address: its window's; an address in no window is open bus (R51). -/
def Bus.readRule (b : Bus) (a : Word) : ReadRule :=
  match b.windows.find? (fun w => w.holds a) with
  | some w => w.onRead
  | none => .device

/-- The rule for writes to an address: its window's; an address in no window absorbs them (R52). -/
def Bus.writeRule (b : Bus) (a : Word) : WriteRule :=
  match b.windows.find? (fun w => w.holds a) with
  | some w => w.onWrite
  | none => .absorbed

/-- The byte the memory holds at an address, with no access made. -/
def Bus.stored (b : Bus) (a : Word) : Byte := cellAt b.cells a.toNat

/-- What the bus answers to a read: a byte, or its error (R53, R233). -/
def Bus.readReply (b : Bus) (a : Word) : Except Nat Byte :=
  match b.readRule a with
  | .cells => .ok (b.stored a)
  | .device => .ok (Config.busByte b.log a)
  | .fallible =>
    match Config.busReadError b.log a with
    | none => .ok (Config.busByte b.log a)
    | some e => .error e
  | .raises e => .error e

/-- The error, if any, the bus raises at a write (R233). -/
def Bus.writeError (b : Bus) (a : Word) (v : Byte) : Option Nat :=
  match b.writeRule a with
  | .cells | .absorbed => none
  | .fallible => Config.busWriteError b.log a v
  | .raises e => some e

/-- The memory after a write the bus accepts: changed only where the map says the memory holds it. -/
def Bus.cellsAfterWrite (b : Bus) (a : Word) (v : Byte) : List Host.Cell :=
  match b.writeRule a with
  | .cells => setCell b.cells a.toNat v
  | _ => b.cells

/-- The bus with one more access in its history (R54). -/
def Bus.record (b : Bus) (x : BusAccess) : Bus := { b with log := x :: b.log }

/-- `MemRead(a, 1)`: one bus read (R14, R51). -/
def Bus.read (b : Bus) (a : Word) : BusResult Byte :=
  match b.readReply a with
  | .ok v => .ok v (b.record (.read a v))
  | .error e => .raised e (b.record (.readRaised a e))

/-- `MemWrite(a, 1, v)`: one bus write (R14, R52). A write at which the bus raises an error leaves the memory unchanged:
the spec gives a write's effects to the bus (R53) and says no more of the raising one. DESIGN CHOICE (log entry 15),
unsafe. -/
def Bus.write (b : Bus) (a : Word) (v : Byte) : BusResult Unit :=
  match b.writeError a v with
  | none => .ok () ({ b with cells := b.cellsAfterWrite a v }.record (.write a v))
  | some e => .raised e (b.record (.writeRaised a v e))

/-- Two reads, the low byte first, joined to a Word (R56, R57). The address of the high byte is the caller's, since the
zero-page pointers and JMP indirect wrap within a page (R58). -/
def Bus.readPair (b : Bus) (low high : Word) : BusResult Word :=
  (b.read low).andThen fun l b1 => (b1.read high).andThen fun h b2 => .ok (concat h l) b2

/-- `ReadWord(a)` (R15): the high byte at `wrap16(a + 1)`. -/
def Bus.readWord (b : Bus) (a : Word) : BusResult Word := b.readPair a (a + 1)

/-! The registers (R20). -/

def State.setA (s : State) (v : Byte) : State := { s with a := v }
def State.setX (s : State) (v : Byte) : State := { s with x := v }
def State.setY (s : State) (v : Byte) : State := { s with y := v }
def State.setSp (s : State) (v : Byte) : State := { s with sp := v }
def State.setP (s : State) (v : Byte) : State := { s with p := v }
def State.setBus (s : State) (b : Bus) : State := { s with bus := b }
def State.setMode (s : State) (m : Lifecycle) : State := { s with mode := m }

/-- A write of A that sets Z and N from the byte written. -/
def State.loadA (s : State) (v : Byte) : State := (s.setA v).setP (setZN s.p v)

/-- A write of X that sets Z and N from the byte written. -/
def State.loadX (s : State) (v : Byte) : State := (s.setX v).setP (setZN s.p v)

/-- A write of Y that sets Z and N from the byte written. -/
def State.loadY (s : State) (v : Byte) : State := (s.setY v).setP (setZN s.p v)

/-! The stack (R15, R62). -/

/-- The address a push writes: `0x0100 + SP`, the stack page above SP (R23). -/
def State.stackAddr (s : State) : Word := concat s.params.stackPage s.sp

/-- `Push(v)` (R15): write at the stack address, then decrement SP modulo 256. -/
def push (v : Byte) (s : State) (b : Bus) : BusResult State :=
  (b.write s.stackAddr v).andThen fun _ b1 => .ok (s.setSp (s.sp - 1)) b1

/-- `Pull()` (R15): increment SP modulo 256, then read at the stack address. -/
def pull (s : State) (b : Bus) : BusResult (Byte × State) :=
  let s1 := s.setSp (s.sp + 1)
  (b.read s1.stackAddr).andThen fun v b1 => .ok (v, s1) b1

/-- `Push(hi(w)); Push(lo(w))` (R220, R222). -/
def pushWord (w : Word) (s : State) (b : Bus) : BusResult State :=
  (push (hi w) s b).andThen fun s1 b1 => push (lo w) s1 b1

/-- `l <- Pull(); h <- Pull()`, joined (R221, R223). -/
def pullWord (s : State) (b : Bus) : BusResult (Word × State) :=
  (pull s b).andThen fun l b1 => (pull l.2 b1).andThen fun h b2 => .ok (concat h.1 l.1, h.2) b2

/-! The end of a step. -/

/-- The state a completing instruction commits (R112, R113): the registers of `t`, PC at the target or past the
instruction, the cycles of `s` and the instruction's. `s` is the state the instruction started from. -/
def commit (o : Operand) (base penalty : Nat) (target : Option Word) (s t : State) : State :=
  { t with pc := target.getD (s.pc + BitVec.ofNat 16 o.length), cycles := s.cycles + base + penalty }

/-- The state a raised step leaves (R236): that of before the step, but for the accesses made and the recorded
fault. -/
def faultedState (r : FaultReason) (s : State) (b : Bus) : State := (s.setBus b).setMode (.faulted r)

/-- The outcome of an instruction that started from `s`: all of its effects, or none (R115). -/
def finish (s : State) (r : BusResult State) : Host.Outcome State Fault Refusal :=
  match r with
  | .ok t b => .next (t.setBus b)
  | .raised e b => .fault (.busError e (faultedState (.busError e) s b))
  | .noCase => .refused .illegalOperand

/-! The software trap and the return from it (R238, R239). -/

/-- Trap entry, used by BRK (R222, R238): push the return address and the pushed copy of P, set I, and answer the
handler's address, read from the vector. -/
def enterTrap (ret vector : Word) (s : State) (b : Bus) : BusResult (Word × State) :=
  (pushWord ret s b).andThen fun s1 b1 =>
    (push (pushedStatus s.p) s1 b1).andThen fun s2 b2 =>
      (b2.readWord vector).andThen fun w b3 => .ok (w, s2.setP (setFlag s.p .i)) b3

/-- Trap return, used by RTI (R223, R239): pull P, keeping bits 4 and 5, then answer the PC pulled. -/
def returnFromTrap (s : State) (b : Bus) : BusResult (Word × State) :=
  (pull s b).andThen fun v b1 => pullWord (v.2.setP (pulledStatus s.p v.1)) b1

/-! Power-on (R260). -/

/-- The registers as power-on leaves them, given the Word at the reset vector (R260, R261). -/
def poweredState (s : State) (entry : Word) (b : Bus) : State where
  a := 0x00
  x := 0x00
  y := 0x00
  sp := 0x00
  p := setFlag 0x00 .i
  pc := entry
  cycles := s.params.powerOnCycles
  mode := .running
  bus := b
  params := s.params

/-- `power()` (R260, R262): two vector reads, in any lifecycle state; a bus error leaves the core Unpowered (D14). -/
def power (s : State) : Host.Outcome State Fault Refusal :=
  match s.bus.readWord s.params.resetVector with
  | .ok entry b => .next (poweredState s entry b)
  | .raised e b => .fault (.busError e ((s.setBus b).setMode .unpowered))
  | .noCase => .refused .illegalOperand

end Sys2Proof.Machine
end

