-- ==== Sys2Proof/Machine/Operands.lean ====
section
/-! DEFINITION. The addressing-mode resolver for all 13 modes (R85 to R96), the operand access helpers `Load` and `Store`
(R97), and the shapes an instruction's step takes over them (R111 to R113): read, store, read-modify-write, implied,
branch, jump, stack. -/

namespace Sys2Proof.Machine

/-- What an operand resolves to: "never a nullable address" (R85, D20). -/
inductive Target where
  | address (ea : Word)
  | immediate (v : Byte)
  | accumulator
  | noOperand
  deriving DecidableEq, Repr

/-- The resolver's result (R85). -/
structure Resolved where
  operand : Target
  pageCrossed : Bool
  bytesConsumed : Nat
  deriving DecidableEq, Repr

/-- Whether two addresses lie in different pages (R19). -/
def pageCross (a b : Word) : Bool := hi a != hi b

/-- A resolved indexed address: `wrap16(base + zext_16(r))`, and whether it left the base's page (R90, R92). -/
def indexed (base : Word) (r : Byte) (consumed : Nat) : Resolved :=
  ⟨.address (base + zext r), pageCross base (base + zext r), consumed⟩

/-- The target of a branch at `pc` (R94): `wrap16(PC + 2 + sext_16(off))`. -/
def branchTarget (pc : Word) (off : Byte) : Word := pc + 2 + sext off

/-- The resolver (R85 to R96). The operand bytes have been read by the fetch (`Fetch.lean`), which is the first thing
every rule R86 to R94 does, in that order; the pointer bytes are read here. -/
def resolve (o : Operand) (s : State) (b : Bus) : BusResult Resolved :=
  match o with
  | .implied => .ok ⟨.noOperand, false, 0⟩ b
  | .accumulator => .ok ⟨.accumulator, false, 0⟩ b
  | .immediate v => .ok ⟨.immediate v, false, 1⟩ b
  | .zeroPage z => .ok ⟨.address (zext z), false, 1⟩ b
  | .zeroPageX z => .ok ⟨.address (zext (z + s.x)), false, 1⟩ b
  | .zeroPageY z => .ok ⟨.address (zext (z + s.y)), false, 1⟩ b
  | .absolute w => .ok ⟨.address w, false, 2⟩ b
  | .absoluteX w => .ok (indexed w s.x 2) b
  | .absoluteY w => .ok (indexed w s.y 2) b
  | .indirect w => (b.readPair w (concat (hi w) (lo w + 1))).andThen fun t b1 => .ok ⟨.address t, false, 2⟩ b1
  | .indirectX z =>
    (b.readPair (zext (z + s.x)) (zext (z + s.x + 1))).andThen fun t b1 => .ok ⟨.address t, false, 1⟩ b1
  | .indirectY z => (b.readPair (zext z) (zext (z + 1))).andThen fun t b1 => .ok (indexed t s.y 1) b1
  | .relative off => .ok ⟨.address (branchTarget s.pc off), pageCross (s.pc + 2) (branchTarget s.pc off), 1⟩ b

/-- `Load(res)` (R97); of no operand it has no case. -/
def load (t : Target) (s : State) (b : Bus) : BusResult Byte :=
  match t with
  | .address a => b.read a
  | .immediate v => .ok v b
  | .accumulator => .ok s.a b
  | .noOperand => .noCase

/-- `Store(res, v)` (R97): through an immediate or no operand it has no case. -/
def store (t : Target) (v : Byte) (s : State) (b : Bus) : BusResult State :=
  match t with
  | .address a => (b.write a v).andThen fun _ b1 => .ok s b1
  | .accumulator => .ok (s.setA v) b
  | .immediate _ => .noCase
  | .noOperand => .noCase

/-- Resolve, then `Load`: the byte an instruction reads, with what its operand resolved to. -/
def readOperand (o : Operand) (s : State) (b : Bus) : BusResult (Resolved × Byte) :=
  (resolve o s b).andThen fun r b1 => (load r.operand s b1).andThen fun m b2 => .ok (r, m) b2

/-- `EffectiveAddress(a) <- res`: resolve to an address. -/
def operandAddress (o : Operand) (s : State) (b : Bus) : BusResult (Word × Bool) :=
  (resolve o s b).andThen fun r b1 =>
    match r.operand with
    | .address a => .ok (a, r.pageCrossed) b1
    | .immediate _ => .noCase
    | .accumulator => .noCase
    | .noOperand => .noCase

/-- One cycle where the page was crossed (R113). -/
def crossPenalty (r : Resolved) : Nat := if r.pageCrossed then 1 else 0

/-- No penalty (R113). -/
def noPenalty (_ : Resolved) : Nat := 0

/-- The step of an instruction that reads its operand: `f` gives the registers for the byte read. -/
def readRow (o : Operand) (base : Nat) (penalty : Resolved → Nat) (f : Byte → State → State) (s : State) :
    Host.Outcome State Fault Refusal :=
  finish s ((readOperand o s s.bus).andThen fun rm b => .ok (commit o base (penalty rm.1) none s (f rm.2 s)) b)

/-- The step of a store: one write of `v`, no read of the target, no penalty (R173 to R175, D19). -/
def storeRow (o : Operand) (base : Nat) (v : Byte) (s : State) : Host.Outcome State Fault Refusal :=
  finish s ((operandAddress o s s.bus).andThen fun t b =>
    (b.write t.1 v).andThen fun _ b1 => .ok (commit o base 0 none s s) b1)

/-- The step of a read-modify-write instruction (R59, R160): read, then write the result back to where it came from;
`f` gives the result and P for the byte read. The cycles are fixed (R113). -/
def modifyRow (o : Operand) (base : Nat) (f : Byte → State → Byte × Byte) (s : State) :
    Host.Outcome State Fault Refusal :=
  finish s ((readOperand o s s.bus).andThen fun rm b =>
    (store rm.1.operand (f rm.2 s).1 s b).andThen fun t b1 =>
      .ok (commit o base 0 none s (t.setP (f rm.2 s).2)) b1)

/-- The step of an instruction on registers and flags alone (R96). -/
def impliedRow (base : Nat) (f : State → State) (s : State) : Host.Outcome State Fault Refusal :=
  finish s ((resolve .implied s s.bus).andThen fun _ b => .ok (commit .implied base 0 none s (f s)) b)

/-- The step of a branch (R210): taken, it costs one cycle, two across a page. -/
def branchRow (off : Byte) (taken : Bool) (s : State) : Host.Outcome State Fault Refusal :=
  finish s ((operandAddress (.relative off) s s.bus).andThen fun t b =>
    if taken then .ok (commit (.relative off) 2 (if t.2 then 2 else 1) (some t.1) s s) b
    else .ok (commit (.relative off) 2 0 none s s) b)

/-- The step of JMP (R219). -/
def jumpRow (o : Operand) (base : Nat) (s : State) : Host.Outcome State Fault Refusal :=
  finish s ((operandAddress o s s.bus).andThen fun t b => .ok (commit o base 0 (some t.1) s s) b)

/-- The step of a push (R190, R191). -/
def pushRow (base : Nat) (v : Byte) (s : State) : Host.Outcome State Fault Refusal :=
  finish s ((push v s s.bus).andThen fun t b => .ok (commit .implied base 0 none s t) b)

/-- The step of a pull (R192, R193): `f` gives the registers for the byte pulled. -/
def pullRow (base : Nat) (f : Byte → State → State) (s : State) : Host.Outcome State Fault Refusal :=
  finish s ((pull s s.bus).andThen fun vt b => .ok (commit .implied base 0 none s (f vt.1 vt.2)) b)

end Sys2Proof.Machine
end

