-- ==== Sys2Proof/Machine/Arithmetic.lean ====
section
/-! DEFINITION. The meanings of the arithmetic, compare, increment and decrement instructions (R130 to R142). Arithmetic is
modulo 256 and binary in every state of D (R130, D2). -/

namespace Sys2Proof.Machine

/-- ADC's registers for the operand `m` (R132): A gets `s[7:0]`; C, V, Z, N are written. -/
def adcRegs (m : Byte) (s : State) : State :=
  (s.setA (sumByte s.a m (s.flag .c))).setP (sumFlags s.p s.a m (s.flag .c))

/-- SBC's registers for the operand `m` (R133): ADC of the one's complement of the operand. -/
def sbcRegs (m : Byte) (s : State) : State := adcRegs (m ^^^ 0xFF) s

/-- CMP's registers (R134): flags from A and `m`, A unchanged. -/
def cmpRegs (m : Byte) (s : State) : State := s.setP (compareFlags s.p s.a m)

/-- CPX's registers (R135). -/
def cpxRegs (m : Byte) (s : State) : State := s.setP (compareFlags s.p s.x m)

/-- CPY's registers (R136). -/
def cpyRegs (m : Byte) (s : State) : State := s.setP (compareFlags s.p s.y m)

/-- INC's result and P for the byte read (R137). -/
def incByte (v : Byte) (s : State) : Byte × Byte := (v + 1, setZN s.p (v + 1))

/-- DEC's result and P for the byte read (R138). -/
def decByte (v : Byte) (s : State) : Byte × Byte := (v - 1, setZN s.p (v - 1))

/-- ADC, Immediate (R132): 0x69, 2 bytes, 2 cycles. -/
def execAdcImm (v : Byte) (s : State) : Host.Outcome State Fault Refusal :=
  readRow (.immediate v) 2 crossPenalty adcRegs s

/-- ADC, ZeroPage (R132): 0x65, 2 bytes, 3 cycles. -/
def execAdcZp (z : Byte) (s : State) : Host.Outcome State Fault Refusal :=
  readRow (.zeroPage z) 3 crossPenalty adcRegs s

/-- ADC, ZeroPageX (R132): 0x75, 2 bytes, 4 cycles. -/
def execAdcZpX (z : Byte) (s : State) : Host.Outcome State Fault Refusal :=
  readRow (.zeroPageX z) 4 crossPenalty adcRegs s

/-- ADC, Absolute (R132): 0x6D, 3 bytes, 4 cycles. -/
def execAdcAbs (w : Word) (s : State) : Host.Outcome State Fault Refusal :=
  readRow (.absolute w) 4 crossPenalty adcRegs s

/-- ADC, AbsoluteX (R132): 0x7D, 3 bytes, 4 cycles, +1 on a page cross. -/
def execAdcAbsX (w : Word) (s : State) : Host.Outcome State Fault Refusal :=
  readRow (.absoluteX w) 4 crossPenalty adcRegs s

/-- ADC, AbsoluteY (R132): 0x79, 3 bytes, 4 cycles, +1 on a page cross. -/
def execAdcAbsY (w : Word) (s : State) : Host.Outcome State Fault Refusal :=
  readRow (.absoluteY w) 4 crossPenalty adcRegs s

/-- ADC, IndirectX (R132): 0x61, 2 bytes, 6 cycles. -/
def execAdcIndX (z : Byte) (s : State) : Host.Outcome State Fault Refusal :=
  readRow (.indirectX z) 6 crossPenalty adcRegs s

/-- ADC, IndirectY (R132): 0x71, 2 bytes, 5 cycles, +1 on a page cross. -/
def execAdcIndY (z : Byte) (s : State) : Host.Outcome State Fault Refusal :=
  readRow (.indirectY z) 5 crossPenalty adcRegs s

/-- SBC, Immediate (R133): 0xE9, 2 bytes, 2 cycles. -/
def execSbcImm (v : Byte) (s : State) : Host.Outcome State Fault Refusal :=
  readRow (.immediate v) 2 crossPenalty sbcRegs s

/-- SBC, ZeroPage (R133): 0xE5, 2 bytes, 3 cycles. -/
def execSbcZp (z : Byte) (s : State) : Host.Outcome State Fault Refusal :=
  readRow (.zeroPage z) 3 crossPenalty sbcRegs s

/-- SBC, ZeroPageX (R133): 0xF5, 2 bytes, 4 cycles. -/
def execSbcZpX (z : Byte) (s : State) : Host.Outcome State Fault Refusal :=
  readRow (.zeroPageX z) 4 crossPenalty sbcRegs s

/-- SBC, Absolute (R133): 0xED, 3 bytes, 4 cycles. -/
def execSbcAbs (w : Word) (s : State) : Host.Outcome State Fault Refusal :=
  readRow (.absolute w) 4 crossPenalty sbcRegs s

/-- SBC, AbsoluteX (R133): 0xFD, 3 bytes, 4 cycles, +1 on a page cross. -/
def execSbcAbsX (w : Word) (s : State) : Host.Outcome State Fault Refusal :=
  readRow (.absoluteX w) 4 crossPenalty sbcRegs s

/-- SBC, AbsoluteY (R133): 0xF9, 3 bytes, 4 cycles, +1 on a page cross. -/
def execSbcAbsY (w : Word) (s : State) : Host.Outcome State Fault Refusal :=
  readRow (.absoluteY w) 4 crossPenalty sbcRegs s

/-- SBC, IndirectX (R133): 0xE1, 2 bytes, 6 cycles. -/
def execSbcIndX (z : Byte) (s : State) : Host.Outcome State Fault Refusal :=
  readRow (.indirectX z) 6 crossPenalty sbcRegs s

/-- SBC, IndirectY (R133): 0xF1, 2 bytes, 5 cycles, +1 on a page cross. -/
def execSbcIndY (z : Byte) (s : State) : Host.Outcome State Fault Refusal :=
  readRow (.indirectY z) 5 crossPenalty sbcRegs s

/-- CMP, Immediate (R134): 0xC9, 2 bytes, 2 cycles. -/
def execCmpImm (v : Byte) (s : State) : Host.Outcome State Fault Refusal :=
  readRow (.immediate v) 2 crossPenalty cmpRegs s

/-- CMP, ZeroPage (R134): 0xC5, 2 bytes, 3 cycles. -/
def execCmpZp (z : Byte) (s : State) : Host.Outcome State Fault Refusal :=
  readRow (.zeroPage z) 3 crossPenalty cmpRegs s

/-- CMP, ZeroPageX (R134): 0xD5, 2 bytes, 4 cycles. -/
def execCmpZpX (z : Byte) (s : State) : Host.Outcome State Fault Refusal :=
  readRow (.zeroPageX z) 4 crossPenalty cmpRegs s

/-- CMP, Absolute (R134): 0xCD, 3 bytes, 4 cycles. -/
def execCmpAbs (w : Word) (s : State) : Host.Outcome State Fault Refusal :=
  readRow (.absolute w) 4 crossPenalty cmpRegs s

/-- CMP, AbsoluteX (R134): 0xDD, 3 bytes, 4 cycles, +1 on a page cross. -/
def execCmpAbsX (w : Word) (s : State) : Host.Outcome State Fault Refusal :=
  readRow (.absoluteX w) 4 crossPenalty cmpRegs s

/-- CMP, AbsoluteY (R134): 0xD9, 3 bytes, 4 cycles, +1 on a page cross. -/
def execCmpAbsY (w : Word) (s : State) : Host.Outcome State Fault Refusal :=
  readRow (.absoluteY w) 4 crossPenalty cmpRegs s

/-- CMP, IndirectX (R134): 0xC1, 2 bytes, 6 cycles. -/
def execCmpIndX (z : Byte) (s : State) : Host.Outcome State Fault Refusal :=
  readRow (.indirectX z) 6 crossPenalty cmpRegs s

/-- CMP, IndirectY (R134): 0xD1, 2 bytes, 5 cycles, +1 on a page cross. -/
def execCmpIndY (z : Byte) (s : State) : Host.Outcome State Fault Refusal :=
  readRow (.indirectY z) 5 crossPenalty cmpRegs s

/-- CPX, Immediate (R135): 0xE0, 2 bytes, 2 cycles. -/
def execCpxImm (v : Byte) (s : State) : Host.Outcome State Fault Refusal :=
  readRow (.immediate v) 2 noPenalty cpxRegs s

/-- CPX, ZeroPage (R135): 0xE4, 2 bytes, 3 cycles. -/
def execCpxZp (z : Byte) (s : State) : Host.Outcome State Fault Refusal :=
  readRow (.zeroPage z) 3 noPenalty cpxRegs s

/-- CPX, Absolute (R135): 0xEC, 3 bytes, 4 cycles. -/
def execCpxAbs (w : Word) (s : State) : Host.Outcome State Fault Refusal :=
  readRow (.absolute w) 4 noPenalty cpxRegs s

/-- CPY, Immediate (R136): 0xC0, 2 bytes, 2 cycles. -/
def execCpyImm (v : Byte) (s : State) : Host.Outcome State Fault Refusal :=
  readRow (.immediate v) 2 noPenalty cpyRegs s

/-- CPY, ZeroPage (R136): 0xC4, 2 bytes, 3 cycles. -/
def execCpyZp (z : Byte) (s : State) : Host.Outcome State Fault Refusal :=
  readRow (.zeroPage z) 3 noPenalty cpyRegs s

/-- CPY, Absolute (R136): 0xCC, 3 bytes, 4 cycles. -/
def execCpyAbs (w : Word) (s : State) : Host.Outcome State Fault Refusal :=
  readRow (.absolute w) 4 noPenalty cpyRegs s

/-- INC, ZeroPage (R137): 0xE6, 2 bytes, 5 cycles. -/
def execIncZp (z : Byte) (s : State) : Host.Outcome State Fault Refusal :=
  modifyRow (.zeroPage z) 5 incByte s

/-- INC, ZeroPageX (R137): 0xF6, 2 bytes, 6 cycles. -/
def execIncZpX (z : Byte) (s : State) : Host.Outcome State Fault Refusal :=
  modifyRow (.zeroPageX z) 6 incByte s

/-- INC, Absolute (R137): 0xEE, 3 bytes, 6 cycles. -/
def execIncAbs (w : Word) (s : State) : Host.Outcome State Fault Refusal :=
  modifyRow (.absolute w) 6 incByte s

/-- INC, AbsoluteX (R137): 0xFE, 3 bytes, 7 cycles. -/
def execIncAbsX (w : Word) (s : State) : Host.Outcome State Fault Refusal :=
  modifyRow (.absoluteX w) 7 incByte s

/-- DEC, ZeroPage (R138): 0xC6, 2 bytes, 5 cycles. -/
def execDecZp (z : Byte) (s : State) : Host.Outcome State Fault Refusal :=
  modifyRow (.zeroPage z) 5 decByte s

/-- DEC, ZeroPageX (R138): 0xD6, 2 bytes, 6 cycles. -/
def execDecZpX (z : Byte) (s : State) : Host.Outcome State Fault Refusal :=
  modifyRow (.zeroPageX z) 6 decByte s

/-- DEC, Absolute (R138): 0xCE, 3 bytes, 6 cycles. -/
def execDecAbs (w : Word) (s : State) : Host.Outcome State Fault Refusal :=
  modifyRow (.absolute w) 6 decByte s

/-- DEC, AbsoluteX (R138): 0xDE, 3 bytes, 7 cycles. -/
def execDecAbsX (w : Word) (s : State) : Host.Outcome State Fault Refusal :=
  modifyRow (.absoluteX w) 7 decByte s

/-- INX (R139): 0xE8, 1 byte, 2 cycles; `X <- wrap8(X + 1)`. -/
def execInx (s : State) : Host.Outcome State Fault Refusal :=
  impliedRow 2 (fun t => t.loadX (t.x + 1)) s

/-- INY (R140): 0xC8, 1 byte, 2 cycles; `Y <- wrap8(Y + 1)`. -/
def execIny (s : State) : Host.Outcome State Fault Refusal :=
  impliedRow 2 (fun t => t.loadY (t.y + 1)) s

/-- DEX (R141): 0xCA, 1 byte, 2 cycles; `X <- wrap8(X - 1)`. -/
def execDex (s : State) : Host.Outcome State Fault Refusal :=
  impliedRow 2 (fun t => t.loadX (t.x - 1)) s

/-- DEY (R142): 0x88, 1 byte, 2 cycles; `Y <- wrap8(Y - 1)`. -/
def execDey (s : State) : Host.Outcome State Fault Refusal :=
  impliedRow 2 (fun t => t.loadY (t.y - 1)) s

end Sys2Proof.Machine
end

