-- ==== Sys2Proof/Machine/Control.lean ====
section
/-! DEFINITION. The meanings of the branches, jumps, calls, returns, BRK, RTI and NOP (R210 to R224). -/

namespace Sys2Proof.Machine

/-- BPL (R211): 0x10, 2 bytes, 2 cycles (R210); taken when `P.N == 0`. -/
def execBpl (off : Byte) (s : State) : Host.Outcome State Fault Refusal :=
  branchRow off (!s.flag .n) s

/-- BMI (R212): 0x30, 2 bytes, 2 cycles (R210); taken when `P.N == 1`. -/
def execBmi (off : Byte) (s : State) : Host.Outcome State Fault Refusal :=
  branchRow off (s.flag .n) s

/-- BVC (R213): 0x50, 2 bytes, 2 cycles (R210); taken when `P.V == 0`. -/
def execBvc (off : Byte) (s : State) : Host.Outcome State Fault Refusal :=
  branchRow off (!s.flag .v) s

/-- BVS (R214): 0x70, 2 bytes, 2 cycles (R210); taken when `P.V == 1`. -/
def execBvs (off : Byte) (s : State) : Host.Outcome State Fault Refusal :=
  branchRow off (s.flag .v) s

/-- BCC (R215): 0x90, 2 bytes, 2 cycles (R210); taken when `P.C == 0`. -/
def execBcc (off : Byte) (s : State) : Host.Outcome State Fault Refusal :=
  branchRow off (!s.flag .c) s

/-- BCS (R216): 0xB0, 2 bytes, 2 cycles (R210); taken when `P.C == 1`. -/
def execBcs (off : Byte) (s : State) : Host.Outcome State Fault Refusal :=
  branchRow off (s.flag .c) s

/-- BNE (R217): 0xD0, 2 bytes, 2 cycles (R210); taken when `P.Z == 0`. -/
def execBne (off : Byte) (s : State) : Host.Outcome State Fault Refusal :=
  branchRow off (!s.flag .z) s

/-- BEQ (R218): 0xF0, 2 bytes, 2 cycles (R210); taken when `P.Z == 1`. -/
def execBeq (off : Byte) (s : State) : Host.Outcome State Fault Refusal :=
  branchRow off (s.flag .z) s

/-- JMP, Absolute (R219): 0x4C, 3 bytes, 3 cycles. -/
def execJmpAbs (w : Word) (s : State) : Host.Outcome State Fault Refusal :=
  jumpRow (.absolute w) 3 s

/-- JMP, Indirect (R219): 0x6C, 3 bytes, 5 cycles. -/
def execJmpInd (w : Word) (s : State) : Host.Outcome State Fault Refusal :=
  jumpRow (.indirect w) 5 s

/-- JSR (R220): 0x20, 3 bytes, 6 cycles; pushes the address of its last byte, `wrap16(PC + 2)`, high byte first. -/
def execJsr (w : Word) (s : State) : Host.Outcome State Fault Refusal :=
  finish s ((operandAddress (.absolute w) s s.bus).andThen fun t b =>
    (pushWord (s.pc + 2) s b).andThen fun s1 b1 => .ok (commit (.absolute w) 6 0 (some t.1) s s1) b1)

/-- RTS (R221): 0x60, 1 byte, 6 cycles; PC is the Word pulled plus 1. -/
def execRts (s : State) : Host.Outcome State Fault Refusal :=
  finish s ((pullWord s s.bus).andThen fun ws b => .ok (commit .implied 6 0 (some (ws.1 + 1)) s ws.2) b)

/-- BRK (R222): 0x00, 1 byte, 7 cycles; takes the software trap with the return address `wrap16(PC + 2)`, whatever I is; the
padding byte is not read. -/
def execBrk (s : State) : Host.Outcome State Fault Refusal :=
  finish s ((enterTrap (s.pc + 2) s.params.brkVector s s.bus).andThen fun ws b =>
    .ok (commit .implied 7 0 (some ws.1) s ws.2) b)

/-- RTI (R223): 0x40, 1 byte, 6 cycles; PC is the Word pulled, with no 1 added. -/
def execRti (s : State) : Host.Outcome State Fault Refusal :=
  finish s ((returnFromTrap s s.bus).andThen fun ws b => .ok (commit .implied 6 0 (some ws.1) s ws.2) b)

/-- NOP (R224): 0xEA, 1 byte, 2 cycles; `nothing`. -/
def execNop (s : State) : Host.Outcome State Fault Refusal :=
  impliedRow 2 (fun t => t) s

end Sys2Proof.Machine
end

