-- ==== Sys2Proof/Machine/FlagOps.lean ====
section
/-! DEFINITION. The meanings of the flag instructions (R200 to R206): each writes exactly one flag. -/

namespace Sys2Proof.Machine

/-- CLC (R200): 0x18, 1 byte, 2 cycles; `P.C <- 0`. -/
def execClc (s : State) : Host.Outcome State Fault Refusal :=
  impliedRow 2 (fun t => t.setP (clearFlag t.p .c)) s

/-- SEC (R201): 0x38, 1 byte, 2 cycles; `P.C <- 1`. -/
def execSec (s : State) : Host.Outcome State Fault Refusal :=
  impliedRow 2 (fun t => t.setP (setFlag t.p .c)) s

/-- CLI (R202): 0x58, 1 byte, 2 cycles; `P.I <- 0`. -/
def execCli (s : State) : Host.Outcome State Fault Refusal :=
  impliedRow 2 (fun t => t.setP (clearFlag t.p .i)) s

/-- SEI (R203): 0x78, 1 byte, 2 cycles; `P.I <- 1`. -/
def execSei (s : State) : Host.Outcome State Fault Refusal :=
  impliedRow 2 (fun t => t.setP (setFlag t.p .i)) s

/-- CLD (R204): 0xD8, 1 byte, 2 cycles; `P.D <- 0`. -/
def execCld (s : State) : Host.Outcome State Fault Refusal :=
  impliedRow 2 (fun t => t.setP (clearFlag t.p .d)) s

/-- SED (R205): 0xF8, 1 byte, 2 cycles; `P.D <- 1`. -/
def execSed (s : State) : Host.Outcome State Fault Refusal :=
  impliedRow 2 (fun t => t.setP (setFlag t.p .d)) s

/-- CLV (R206): 0xB8, 1 byte, 2 cycles; `P.V <- 0`. -/
def execClv (s : State) : Host.Outcome State Fault Refusal :=
  impliedRow 2 (fun t => t.setP (clearFlag t.p .v)) s

end Sys2Proof.Machine
end

