-- ==== Sys2Proof/Machine/Logical.lean ====
section
/-! DEFINITION. The meanings of the bitwise logic instructions (R150 to R153). -/

namespace Sys2Proof.Machine

/-- EOR's registers for the operand `m` (R150). -/
def eorRegs (m : Byte) (s : State) : State := s.loadA (s.a ^^^ m)

/-- AND's registers for the operand `m` (R151). -/
def andRegs (m : Byte) (s : State) : State := s.loadA (s.a &&& m)

/-- ORA's registers for the operand `m` (R152). -/
def oraRegs (m : Byte) (s : State) : State := s.loadA (s.a ||| m)

/-- BIT's registers for the operand `m` (R153): flags only. -/
def bitRegs (m : Byte) (s : State) : State := s.setP (bitFlags s.p s.a m)

/-- EOR, Immediate (R150): 0x49, 2 bytes, 2 cycles. -/
def execEorImm (v : Byte) (s : State) : Host.Outcome State Fault Refusal :=
  readRow (.immediate v) 2 crossPenalty eorRegs s

/-- EOR, ZeroPage (R150): 0x45, 2 bytes, 3 cycles. -/
def execEorZp (z : Byte) (s : State) : Host.Outcome State Fault Refusal :=
  readRow (.zeroPage z) 3 crossPenalty eorRegs s

/-- EOR, ZeroPageX (R150): 0x55, 2 bytes, 4 cycles. -/
def execEorZpX (z : Byte) (s : State) : Host.Outcome State Fault Refusal :=
  readRow (.zeroPageX z) 4 crossPenalty eorRegs s

/-- EOR, Absolute (R150): 0x4D, 3 bytes, 4 cycles. -/
def execEorAbs (w : Word) (s : State) : Host.Outcome State Fault Refusal :=
  readRow (.absolute w) 4 crossPenalty eorRegs s

/-- EOR, AbsoluteX (R150): 0x5D, 3 bytes, 4 cycles, +1 on a page cross. -/
def execEorAbsX (w : Word) (s : State) : Host.Outcome State Fault Refusal :=
  readRow (.absoluteX w) 4 crossPenalty eorRegs s

/-- EOR, AbsoluteY (R150): 0x59, 3 bytes, 4 cycles, +1 on a page cross. -/
def execEorAbsY (w : Word) (s : State) : Host.Outcome State Fault Refusal :=
  readRow (.absoluteY w) 4 crossPenalty eorRegs s

/-- EOR, IndirectX (R150): 0x41, 2 bytes, 6 cycles. -/
def execEorIndX (z : Byte) (s : State) : Host.Outcome State Fault Refusal :=
  readRow (.indirectX z) 6 crossPenalty eorRegs s

/-- EOR, IndirectY (R150): 0x51, 2 bytes, 5 cycles, +1 on a page cross. -/
def execEorIndY (z : Byte) (s : State) : Host.Outcome State Fault Refusal :=
  readRow (.indirectY z) 5 crossPenalty eorRegs s

/-- AND, Immediate (R151): 0x29, 2 bytes, 2 cycles. -/
def execAndImm (v : Byte) (s : State) : Host.Outcome State Fault Refusal :=
  readRow (.immediate v) 2 crossPenalty andRegs s

/-- AND, ZeroPage (R151): 0x25, 2 bytes, 3 cycles. -/
def execAndZp (z : Byte) (s : State) : Host.Outcome State Fault Refusal :=
  readRow (.zeroPage z) 3 crossPenalty andRegs s

/-- AND, ZeroPageX (R151): 0x35, 2 bytes, 4 cycles. -/
def execAndZpX (z : Byte) (s : State) : Host.Outcome State Fault Refusal :=
  readRow (.zeroPageX z) 4 crossPenalty andRegs s

/-- AND, Absolute (R151): 0x2D, 3 bytes, 4 cycles. -/
def execAndAbs (w : Word) (s : State) : Host.Outcome State Fault Refusal :=
  readRow (.absolute w) 4 crossPenalty andRegs s

/-- AND, AbsoluteX (R151): 0x3D, 3 bytes, 4 cycles, +1 on a page cross. -/
def execAndAbsX (w : Word) (s : State) : Host.Outcome State Fault Refusal :=
  readRow (.absoluteX w) 4 crossPenalty andRegs s

/-- AND, AbsoluteY (R151): 0x39, 3 bytes, 4 cycles, +1 on a page cross. -/
def execAndAbsY (w : Word) (s : State) : Host.Outcome State Fault Refusal :=
  readRow (.absoluteY w) 4 crossPenalty andRegs s

/-- AND, IndirectX (R151): 0x21, 2 bytes, 6 cycles. -/
def execAndIndX (z : Byte) (s : State) : Host.Outcome State Fault Refusal :=
  readRow (.indirectX z) 6 crossPenalty andRegs s

/-- AND, IndirectY (R151): 0x31, 2 bytes, 5 cycles, +1 on a page cross. -/
def execAndIndY (z : Byte) (s : State) : Host.Outcome State Fault Refusal :=
  readRow (.indirectY z) 5 crossPenalty andRegs s

/-- ORA, Immediate (R152): 0x09, 2 bytes, 2 cycles. -/
def execOraImm (v : Byte) (s : State) : Host.Outcome State Fault Refusal :=
  readRow (.immediate v) 2 crossPenalty oraRegs s

/-- ORA, ZeroPage (R152): 0x05, 2 bytes, 3 cycles. -/
def execOraZp (z : Byte) (s : State) : Host.Outcome State Fault Refusal :=
  readRow (.zeroPage z) 3 crossPenalty oraRegs s

/-- ORA, ZeroPageX (R152): 0x15, 2 bytes, 4 cycles. -/
def execOraZpX (z : Byte) (s : State) : Host.Outcome State Fault Refusal :=
  readRow (.zeroPageX z) 4 crossPenalty oraRegs s

/-- ORA, Absolute (R152): 0x0D, 3 bytes, 4 cycles. -/
def execOraAbs (w : Word) (s : State) : Host.Outcome State Fault Refusal :=
  readRow (.absolute w) 4 crossPenalty oraRegs s

/-- ORA, AbsoluteX (R152): 0x1D, 3 bytes, 4 cycles, +1 on a page cross. -/
def execOraAbsX (w : Word) (s : State) : Host.Outcome State Fault Refusal :=
  readRow (.absoluteX w) 4 crossPenalty oraRegs s

/-- ORA, AbsoluteY (R152): 0x19, 3 bytes, 4 cycles, +1 on a page cross. -/
def execOraAbsY (w : Word) (s : State) : Host.Outcome State Fault Refusal :=
  readRow (.absoluteY w) 4 crossPenalty oraRegs s

/-- ORA, IndirectX (R152): 0x01, 2 bytes, 6 cycles. -/
def execOraIndX (z : Byte) (s : State) : Host.Outcome State Fault Refusal :=
  readRow (.indirectX z) 6 crossPenalty oraRegs s

/-- ORA, IndirectY (R152): 0x11, 2 bytes, 5 cycles, +1 on a page cross. -/
def execOraIndY (z : Byte) (s : State) : Host.Outcome State Fault Refusal :=
  readRow (.indirectY z) 5 crossPenalty oraRegs s

/-- BIT, ZeroPage (R153): 0x24, 2 bytes, 3 cycles. -/
def execBitZp (z : Byte) (s : State) : Host.Outcome State Fault Refusal :=
  readRow (.zeroPage z) 3 noPenalty bitRegs s

/-- BIT, Absolute (R153): 0x2C, 3 bytes, 4 cycles. -/
def execBitAbs (w : Word) (s : State) : Host.Outcome State Fault Refusal :=
  readRow (.absolute w) 4 noPenalty bitRegs s

end Sys2Proof.Machine
end

