-- ==== Sys2Proof/Machine/Shift.lean ====
section
/-! DEFINITION. The meanings of the shifts and rotates (R160 to R164), on A or on a memory byte; no page-cross
cycle in any mode. -/

namespace Sys2Proof.Machine

/-- LSR's result and P for the byte read (R161): bit 7 is filled with 0, C gets the old bit 0. -/
def lsrByte (v : Byte) (s : State) : Byte × Byte := (v >>> 1, shiftFlags s.p (v.getLsbD 0) (v >>> 1))

/-- ASL's result and P for the byte read (R162): bit 0 is filled with 0, C gets the old bit 7. -/
def aslByte (v : Byte) (s : State) : Byte × Byte := (v <<< 1, shiftFlags s.p (v.getLsbD 7) (v <<< 1))

/-- The result of ROL (R163): the old carry enters bit 0. -/
def rolResult (v : Byte) (c : Bool) : Byte := (v <<< 1) ||| (if c then 0x01 else 0x00)

/-- The result of ROR (R164): the old carry enters bit 7. -/
def rorResult (v : Byte) (c : Bool) : Byte := (v >>> 1) ||| (if c then 0x80 else 0x00)

/-- ROL's result and P for the byte read (R163): C gets the old bit 7. -/
def rolByte (v : Byte) (s : State) : Byte × Byte :=
  (rolResult v (s.flag .c), shiftFlags s.p (v.getLsbD 7) (rolResult v (s.flag .c)))

/-- ROR's result and P for the byte read (R164): C gets the old bit 0. -/
def rorByte (v : Byte) (s : State) : Byte × Byte :=
  (rorResult v (s.flag .c), shiftFlags s.p (v.getLsbD 0) (rorResult v (s.flag .c)))

/-- LSR, Accumulator (R161): 0x4A, 1 byte, 2 cycles. -/
def execLsrA (s : State) : Host.Outcome State Fault Refusal :=
  modifyRow .accumulator 2 lsrByte s

/-- LSR, ZeroPage (R161): 0x46, 2 bytes, 5 cycles. -/
def execLsrZp (z : Byte) (s : State) : Host.Outcome State Fault Refusal :=
  modifyRow (.zeroPage z) 5 lsrByte s

/-- LSR, ZeroPageX (R161): 0x56, 2 bytes, 6 cycles. -/
def execLsrZpX (z : Byte) (s : State) : Host.Outcome State Fault Refusal :=
  modifyRow (.zeroPageX z) 6 lsrByte s

/-- LSR, Absolute (R161): 0x4E, 3 bytes, 6 cycles. -/
def execLsrAbs (w : Word) (s : State) : Host.Outcome State Fault Refusal :=
  modifyRow (.absolute w) 6 lsrByte s

/-- LSR, AbsoluteX (R161): 0x5E, 3 bytes, 7 cycles. -/
def execLsrAbsX (w : Word) (s : State) : Host.Outcome State Fault Refusal :=
  modifyRow (.absoluteX w) 7 lsrByte s

/-- ASL, Accumulator (R162): 0x0A, 1 byte, 2 cycles. -/
def execAslA (s : State) : Host.Outcome State Fault Refusal :=
  modifyRow .accumulator 2 aslByte s

/-- ASL, ZeroPage (R162): 0x06, 2 bytes, 5 cycles. -/
def execAslZp (z : Byte) (s : State) : Host.Outcome State Fault Refusal :=
  modifyRow (.zeroPage z) 5 aslByte s

/-- ASL, ZeroPageX (R162): 0x16, 2 bytes, 6 cycles. -/
def execAslZpX (z : Byte) (s : State) : Host.Outcome State Fault Refusal :=
  modifyRow (.zeroPageX z) 6 aslByte s

/-- ASL, Absolute (R162): 0x0E, 3 bytes, 6 cycles. -/
def execAslAbs (w : Word) (s : State) : Host.Outcome State Fault Refusal :=
  modifyRow (.absolute w) 6 aslByte s

/-- ASL, AbsoluteX (R162): 0x1E, 3 bytes, 7 cycles. -/
def execAslAbsX (w : Word) (s : State) : Host.Outcome State Fault Refusal :=
  modifyRow (.absoluteX w) 7 aslByte s

/-- ROL, Accumulator (R163): 0x2A, 1 byte, 2 cycles. -/
def execRolA (s : State) : Host.Outcome State Fault Refusal :=
  modifyRow .accumulator 2 rolByte s

/-- ROL, ZeroPage (R163): 0x26, 2 bytes, 5 cycles. -/
def execRolZp (z : Byte) (s : State) : Host.Outcome State Fault Refusal :=
  modifyRow (.zeroPage z) 5 rolByte s

/-- ROL, ZeroPageX (R163): 0x36, 2 bytes, 6 cycles. -/
def execRolZpX (z : Byte) (s : State) : Host.Outcome State Fault Refusal :=
  modifyRow (.zeroPageX z) 6 rolByte s

/-- ROL, Absolute (R163): 0x2E, 3 bytes, 6 cycles. -/
def execRolAbs (w : Word) (s : State) : Host.Outcome State Fault Refusal :=
  modifyRow (.absolute w) 6 rolByte s

/-- ROL, AbsoluteX (R163): 0x3E, 3 bytes, 7 cycles. -/
def execRolAbsX (w : Word) (s : State) : Host.Outcome State Fault Refusal :=
  modifyRow (.absoluteX w) 7 rolByte s

/-- ROR, Accumulator (R164): 0x6A, 1 byte, 2 cycles. -/
def execRorA (s : State) : Host.Outcome State Fault Refusal :=
  modifyRow .accumulator 2 rorByte s

/-- ROR, ZeroPage (R164): 0x66, 2 bytes, 5 cycles. -/
def execRorZp (z : Byte) (s : State) : Host.Outcome State Fault Refusal :=
  modifyRow (.zeroPage z) 5 rorByte s

/-- ROR, ZeroPageX (R164): 0x76, 2 bytes, 6 cycles. -/
def execRorZpX (z : Byte) (s : State) : Host.Outcome State Fault Refusal :=
  modifyRow (.zeroPageX z) 6 rorByte s

/-- ROR, Absolute (R164): 0x6E, 3 bytes, 6 cycles. -/
def execRorAbs (w : Word) (s : State) : Host.Outcome State Fault Refusal :=
  modifyRow (.absolute w) 6 rorByte s

/-- ROR, AbsoluteX (R164): 0x7E, 3 bytes, 7 cycles. -/
def execRorAbsX (w : Word) (s : State) : Host.Outcome State Fault Refusal :=
  modifyRow (.absoluteX w) 7 rorByte s

end Sys2Proof.Machine
end

