-- ==== Sys2Proof/Machine/Stack.lean ====
section
/-! DEFINITION. The meanings of the stack instructions (R190 to R193). -/

namespace Sys2Proof.Machine

/-- PLA's registers for the byte pulled (R192). -/
def plaRegs (v : Byte) (s : State) : State := s.loadA v

/-- PLP's registers for the byte pulled (R193): bits 4 and 5 of P are kept. -/
def plpRegs (v : Byte) (s : State) : State := s.setP (pulledStatus s.p v)

/-- PHA, Implied (R190): 0x48, 1 byte, 3 cycles. -/
def execPha (s : State) : Host.Outcome State Fault Refusal :=
  pushRow 3 s.a s

/-- PHP (R191): 0x08, 1 byte, 3 cycles; the pushed copy has bits 4 and 5 set, P is unchanged. -/
def execPhp (s : State) : Host.Outcome State Fault Refusal :=
  pushRow 3 (pushedStatus s.p) s

/-- PLA, Implied (R192): 0x68, 1 byte, 4 cycles. -/
def execPla (s : State) : Host.Outcome State Fault Refusal :=
  pullRow 4 plaRegs s

/-- PLP, Implied (R193): 0x28, 1 byte, 4 cycles. -/
def execPlp (s : State) : Host.Outcome State Fault Refusal :=
  pullRow 4 plpRegs s

end Sys2Proof.Machine
end

