-- ==== Sys2Proof/Machine/Transfer.lean ====
section
/-! DEFINITION. The meanings of the loads, stores and register transfers (R170 to R181). -/

namespace Sys2Proof.Machine

/-- LDA, Immediate (R170): 0xA9, 2 bytes, 2 cycles. -/
def execLdaImm (v : Byte) (s : State) : Host.Outcome State Fault Refusal :=
  readRow (.immediate v) 2 crossPenalty (fun m t => t.loadA m) s

/-- LDA, ZeroPage (R170): 0xA5, 2 bytes, 3 cycles. -/
def execLdaZp (z : Byte) (s : State) : Host.Outcome State Fault Refusal :=
  readRow (.zeroPage z) 3 crossPenalty (fun m t => t.loadA m) s

/-- LDA, ZeroPageX (R170): 0xB5, 2 bytes, 4 cycles. -/
def execLdaZpX (z : Byte) (s : State) : Host.Outcome State Fault Refusal :=
  readRow (.zeroPageX z) 4 crossPenalty (fun m t => t.loadA m) s

/-- LDA, Absolute (R170): 0xAD, 3 bytes, 4 cycles. -/
def execLdaAbs (w : Word) (s : State) : Host.Outcome State Fault Refusal :=
  readRow (.absolute w) 4 crossPenalty (fun m t => t.loadA m) s

/-- LDA, AbsoluteX (R170): 0xBD, 3 bytes, 4 cycles, +1 on a page cross. -/
def execLdaAbsX (w : Word) (s : State) : Host.Outcome State Fault Refusal :=
  readRow (.absoluteX w) 4 crossPenalty (fun m t => t.loadA m) s

/-- LDA, AbsoluteY (R170): 0xB9, 3 bytes, 4 cycles, +1 on a page cross. -/
def execLdaAbsY (w : Word) (s : State) : Host.Outcome State Fault Refusal :=
  readRow (.absoluteY w) 4 crossPenalty (fun m t => t.loadA m) s

/-- LDA, IndirectX (R170): 0xA1, 2 bytes, 6 cycles. -/
def execLdaIndX (z : Byte) (s : State) : Host.Outcome State Fault Refusal :=
  readRow (.indirectX z) 6 crossPenalty (fun m t => t.loadA m) s

/-- LDA, IndirectY (R170): 0xB1, 2 bytes, 5 cycles, +1 on a page cross. -/
def execLdaIndY (z : Byte) (s : State) : Host.Outcome State Fault Refusal :=
  readRow (.indirectY z) 5 crossPenalty (fun m t => t.loadA m) s

/-- LDX, Immediate (R171): 0xA2, 2 bytes, 2 cycles. -/
def execLdxImm (v : Byte) (s : State) : Host.Outcome State Fault Refusal :=
  readRow (.immediate v) 2 crossPenalty (fun m t => t.loadX m) s

/-- LDX, ZeroPage (R171): 0xA6, 2 bytes, 3 cycles. -/
def execLdxZp (z : Byte) (s : State) : Host.Outcome State Fault Refusal :=
  readRow (.zeroPage z) 3 crossPenalty (fun m t => t.loadX m) s

/-- LDX, ZeroPageY (R171): 0xB6, 2 bytes, 4 cycles. -/
def execLdxZpY (z : Byte) (s : State) : Host.Outcome State Fault Refusal :=
  readRow (.zeroPageY z) 4 crossPenalty (fun m t => t.loadX m) s

/-- LDX, Absolute (R171): 0xAE, 3 bytes, 4 cycles. -/
def execLdxAbs (w : Word) (s : State) : Host.Outcome State Fault Refusal :=
  readRow (.absolute w) 4 crossPenalty (fun m t => t.loadX m) s

/-- LDX, AbsoluteY (R171): 0xBE, 3 bytes, 4 cycles, +1 on a page cross. -/
def execLdxAbsY (w : Word) (s : State) : Host.Outcome State Fault Refusal :=
  readRow (.absoluteY w) 4 crossPenalty (fun m t => t.loadX m) s

/-- LDY, Immediate (R172): 0xA0, 2 bytes, 2 cycles. -/
def execLdyImm (v : Byte) (s : State) : Host.Outcome State Fault Refusal :=
  readRow (.immediate v) 2 crossPenalty (fun m t => t.loadY m) s

/-- LDY, ZeroPage (R172): 0xA4, 2 bytes, 3 cycles. -/
def execLdyZp (z : Byte) (s : State) : Host.Outcome State Fault Refusal :=
  readRow (.zeroPage z) 3 crossPenalty (fun m t => t.loadY m) s

/-- LDY, ZeroPageX (R172): 0xB4, 2 bytes, 4 cycles. -/
def execLdyZpX (z : Byte) (s : State) : Host.Outcome State Fault Refusal :=
  readRow (.zeroPageX z) 4 crossPenalty (fun m t => t.loadY m) s

/-- LDY, Absolute (R172): 0xAC, 3 bytes, 4 cycles. -/
def execLdyAbs (w : Word) (s : State) : Host.Outcome State Fault Refusal :=
  readRow (.absolute w) 4 crossPenalty (fun m t => t.loadY m) s

/-- LDY, AbsoluteX (R172): 0xBC, 3 bytes, 4 cycles, +1 on a page cross. -/
def execLdyAbsX (w : Word) (s : State) : Host.Outcome State Fault Refusal :=
  readRow (.absoluteX w) 4 crossPenalty (fun m t => t.loadY m) s

/-- STA, ZeroPage (R173): 0x85, 2 bytes, 3 cycles. -/
def execStaZp (z : Byte) (s : State) : Host.Outcome State Fault Refusal :=
  storeRow (.zeroPage z) 3 s.a s

/-- STA, ZeroPageX (R173): 0x95, 2 bytes, 4 cycles. -/
def execStaZpX (z : Byte) (s : State) : Host.Outcome State Fault Refusal :=
  storeRow (.zeroPageX z) 4 s.a s

/-- STA, Absolute (R173): 0x8D, 3 bytes, 4 cycles. -/
def execStaAbs (w : Word) (s : State) : Host.Outcome State Fault Refusal :=
  storeRow (.absolute w) 4 s.a s

/-- STA, AbsoluteX (R173): 0x9D, 3 bytes, 5 cycles. -/
def execStaAbsX (w : Word) (s : State) : Host.Outcome State Fault Refusal :=
  storeRow (.absoluteX w) 5 s.a s

/-- STA, AbsoluteY (R173): 0x99, 3 bytes, 5 cycles. -/
def execStaAbsY (w : Word) (s : State) : Host.Outcome State Fault Refusal :=
  storeRow (.absoluteY w) 5 s.a s

/-- STA, IndirectX (R173): 0x81, 2 bytes, 6 cycles. -/
def execStaIndX (z : Byte) (s : State) : Host.Outcome State Fault Refusal :=
  storeRow (.indirectX z) 6 s.a s

/-- STA, IndirectY (R173): 0x91, 2 bytes, 6 cycles. -/
def execStaIndY (z : Byte) (s : State) : Host.Outcome State Fault Refusal :=
  storeRow (.indirectY z) 6 s.a s

/-- STX, ZeroPage (R174): 0x86, 2 bytes, 3 cycles. -/
def execStxZp (z : Byte) (s : State) : Host.Outcome State Fault Refusal :=
  storeRow (.zeroPage z) 3 s.x s

/-- STX, ZeroPageY (R174): 0x96, 2 bytes, 4 cycles. -/
def execStxZpY (z : Byte) (s : State) : Host.Outcome State Fault Refusal :=
  storeRow (.zeroPageY z) 4 s.x s

/-- STX, Absolute (R174): 0x8E, 3 bytes, 4 cycles. -/
def execStxAbs (w : Word) (s : State) : Host.Outcome State Fault Refusal :=
  storeRow (.absolute w) 4 s.x s

/-- STY, ZeroPage (R175): 0x84, 2 bytes, 3 cycles. -/
def execStyZp (z : Byte) (s : State) : Host.Outcome State Fault Refusal :=
  storeRow (.zeroPage z) 3 s.y s

/-- STY, ZeroPageX (R175): 0x94, 2 bytes, 4 cycles. -/
def execStyZpX (z : Byte) (s : State) : Host.Outcome State Fault Refusal :=
  storeRow (.zeroPageX z) 4 s.y s

/-- STY, Absolute (R175): 0x8C, 3 bytes, 4 cycles. -/
def execStyAbs (w : Word) (s : State) : Host.Outcome State Fault Refusal :=
  storeRow (.absolute w) 4 s.y s

/-- TAX (R176): 0xAA, 1 byte, 2 cycles; `X <- A`. -/
def execTax (s : State) : Host.Outcome State Fault Refusal :=
  impliedRow 2 (fun t => t.loadX t.a) s

/-- TAY (R177): 0xA8, 1 byte, 2 cycles; `Y <- A`. -/
def execTay (s : State) : Host.Outcome State Fault Refusal :=
  impliedRow 2 (fun t => t.loadY t.a) s

/-- TXA (R178): 0x8A, 1 byte, 2 cycles; `A <- X`. -/
def execTxa (s : State) : Host.Outcome State Fault Refusal :=
  impliedRow 2 (fun t => t.loadA t.x) s

/-- TYA (R179): 0x98, 1 byte, 2 cycles; `A <- Y`. -/
def execTya (s : State) : Host.Outcome State Fault Refusal :=
  impliedRow 2 (fun t => t.loadA t.y) s

/-- TSX (R180): 0xBA, 1 byte, 2 cycles; `X <- SP`. -/
def execTsx (s : State) : Host.Outcome State Fault Refusal :=
  impliedRow 2 (fun t => t.loadX t.sp) s

/-- TXS (R181): 0x9A, 1 byte, 2 cycles; `SP <- X, no flag`. -/
def execTxs (s : State) : Host.Outcome State Fault Refusal :=
  impliedRow 2 (fun t => t.setSp t.x) s

end Sys2Proof.Machine
end

