-- ==== Sys2Proof/Machine/Fetch.lean ====
section
/-! DEFINITION. The fetch of an instruction (R110, R111) and the placing of an instruction where the next fetch
reads it. -/

namespace Sys2Proof.Machine

/-- What a fetch finds at PC. -/
inductive Fetched where
  | instr (i : Instr)
  | undefined (op : Byte)
  deriving DecidableEq, Repr

/-- The operand-byte reads that begin the resolver's rules R86 to R94, in their order, with the instruction they
make. DEDUCED (log entry 9), safe: the order of the step's accesses is the spec's. -/
def fetchRest (r : OpcodeRow) (pc : Word) (b : Bus) : BusResult Fetched :=
  match r.build with
  | .bare i => .ok (.instr i) b
  | .withByte f => (b.read (pc + 1)).andThen fun v b1 => .ok (.instr (f v)) b1
  | .withWord f => (b.readPair (pc + 1) (pc + 2)).andThen fun w b1 => .ok (.instr (f w)) b1

/-- The fetch (R110, R111): read the opcode at PC; a byte with no table entry (R100), or out of `OPCODE_SET` (D1), ends
it with no further access; else read the operand bytes. -/
def fetch (s : State) : BusResult Fetched :=
  (s.bus.read s.pc).andThen fun op b =>
    if s.params.excludedOpcodes.contains op then .ok (.undefined op) b
    else
      match findByte op with
      | none => .ok (.undefined op) b
      | some r => fetchRest r s.pc b

/-- The bus with a byte in memory at an address that reads as memory from then on. -/
def Bus.place (b : Bus) (a : Word) (v : Byte) : Bus :=
  { b with
    cells := setCell b.cells a.toNat v
    windows := if b.readRule a = .cells then b.windows else ⟨a.toNat, 1, .cells, b.writeRule a⟩ :: b.windows }

/-- The bus with bytes in memory at consecutive addresses, wrapping modulo 65536 (R80). -/
def Bus.placeAll (b : Bus) (a : Word) : List Byte → Bus
  | [] => b
  | v :: rest => (b.place a v).placeAll (a + 1) rest

/-- The parameters with an opcode in `OPCODE_SET`. -/
def allowOpcode (p : Params) (op : Byte) : Params :=
  { p with excludedOpcodes := p.excludedOpcodes.filter (fun x => x != op) }

/-- A running core whose next fetch reads these bytes. -/
def State.placeInstruction (s : State) (bytes : List Byte) : State :=
  { s with
    mode := .running
    bus := s.bus.placeAll s.pc bytes
    params := allowOpcode s.params (bytes.headD 0x00) }

end Sys2Proof.Machine
end

