-- ==== Sys2Proof/Machine/Step.lean ====
section
/-! DEFINITION. One `step()` (R110 to R115), and the state in which the next step runs a given instruction. -/

namespace Sys2Proof.Machine

/-- `step()`: the lifecycle check, the fetch, then the instruction (R110, R111). A core that is not Running refuses it
(R234, R235); an undefined opcode is a DecodeError with its byte and address (R231); a bus error is
propagated (R233). -/
def step (s : State) : Host.Outcome State Fault Refusal :=
  match s.mode with
  | .unpowered => .refused .notPowered
  | .faulted _ => .refused .notPowered
  | .running =>
    match fetch s with
    | .ok (.instr i) b => exec i (s.setBus b)
    | .ok (.undefined op) b =>
      .fault (.decodeError op s.pc (faultedState (.decodeError op s.pc) s b))
    | .raised e b => .fault (.busError e (faultedState (.busError e) s b))
    | .noCase => .refused .illegalOperand

/-- `s` with the instruction of these bits in memory at PC, the core Running and the opcode in `OPCODE_SET`, so that
the next step fetches and runs exactly it. It stands for the loading of a program, which is the bus's (R7, R264). DESIGN
CHOICE (log entry 10). -/
def State.withFetchWord (s : State) (nbits w : Nat) : State := s.placeInstruction (wordBytes (w % 2 ^ nbits))

end Sys2Proof.Machine
end

