-- ==== Sys2Proof/Machine/Assembler.lean ====
section
/-! DEFINITION. The construction path of R102 and R232, and the assembler's operand forms of R98: choosing the row for a
mnemonic and an operand as it is written, and writing an instruction as text. No step depends on this file. DESIGN
CHOICE (log entry 13), safe. -/

namespace Sys2Proof.Machine

/-- The construction of an instruction from a raw term (R102): a pair outside the table is a ConfigurationError
(R232). -/
def construct (t : Term) : Except Refusal Instr :=
  match t.instr with
  | .ok i => .ok i
  | .error (.undefinedPair op m) => .error (.configurationError op m)
  | .error (.wrongOperandBytes _ _) => .error .operandOutOfRange

/-- An operand as an assembler writes it (R98). The number of `plain`, `x` and `y` fits a ZeroPage-family and an
Absolute-family row. -/
inductive AsmOperand where
  | none
  | accumulator
  | immediate (v : Byte)
  | plain (n : Word)
  | x (n : Word)
  | y (n : Word)
  | indirect (n : Word)
  | indirectX (z : Byte)
  | indirectY (z : Byte)
  | label (target : Word)
  deriving DecidableEq, Repr

/-- The offset a branch at `addr` encodes for a label (R98): `label - (address of the branch + 2)`, which must lie in
-128..127. The distance is taken modulo 65536 (R98 states no modulo): DEDUCED from R94 (log entry 13). -/
def branchOffset (addr target : Word) : Option Byte :=
  let d := target - (addr + 2)
  if sext (lo d) = d then some (lo d) else none

/-- The row of a number operand (R98): the ZeroPage form where the value is below 0x100 and the operation has it, else
the Absolute form. -/
def zeroPagePreferred (op : Operation) (zp abs : AddressMode) (n : Word) : Except Refusal Instr :=
  if hi n = 0 ∧ zp ∈ op.modes then construct ⟨op, zp, [lo n]⟩ else construct ⟨op, abs, [lo n, hi n]⟩

/-- The instruction a mnemonic and an operand stand for, at an address (R98). -/
def assemble (addr : Word) (op : Operation) (o : AsmOperand) : Except Refusal Instr :=
  match o with
  | .none => construct ⟨op, .implied, []⟩
  | .accumulator => construct ⟨op, .accumulator, []⟩
  | .immediate v => construct ⟨op, .immediate, [v]⟩
  | .plain n => zeroPagePreferred op .zeroPage .absolute n
  | .x n => zeroPagePreferred op .zeroPageX .absoluteX n
  | .y n => zeroPagePreferred op .zeroPageY .absoluteY n
  | .indirect n => construct ⟨op, .indirect, [lo n, hi n]⟩
  | .indirectX z => construct ⟨op, .indirectX, [z]⟩
  | .indirectY z => construct ⟨op, .indirectY, [z]⟩
  | .label target =>
    match branchOffset addr target with
    | some off => construct ⟨op, .relative, [off]⟩
    | Option.none => .error .operandOutOfRange

/-- The mnemonic of an operation. -/
def mnemonicText : Operation → String
  | .adc => "ADC"
  | .sbc => "SBC"
  | .cmp => "CMP"
  | .cpx => "CPX"
  | .cpy => "CPY"
  | .inc => "INC"
  | .dec => "DEC"
  | .inx => "INX"
  | .iny => "INY"
  | .dex => "DEX"
  | .dey => "DEY"
  | .eor => "EOR"
  | .and => "AND"
  | .ora => "ORA"
  | .bit => "BIT"
  | .lsr => "LSR"
  | .asl => "ASL"
  | .rol => "ROL"
  | .ror => "ROR"
  | .lda => "LDA"
  | .ldx => "LDX"
  | .ldy => "LDY"
  | .sta => "STA"
  | .stx => "STX"
  | .sty => "STY"
  | .tax => "TAX"
  | .tay => "TAY"
  | .txa => "TXA"
  | .tya => "TYA"
  | .tsx => "TSX"
  | .txs => "TXS"
  | .pha => "PHA"
  | .php => "PHP"
  | .pla => "PLA"
  | .plp => "PLP"
  | .clc => "CLC"
  | .sec => "SEC"
  | .cli => "CLI"
  | .sei => "SEI"
  | .cld => "CLD"
  | .sed => "SED"
  | .clv => "CLV"
  | .bpl => "BPL"
  | .bmi => "BMI"
  | .bvc => "BVC"
  | .bvs => "BVS"
  | .bcc => "BCC"
  | .bcs => "BCS"
  | .bne => "BNE"
  | .beq => "BEQ"
  | .jmp => "JMP"
  | .jsr => "JSR"
  | .rts => "RTS"
  | .brk => "BRK"
  | .rti => "RTI"
  | .nop => "NOP"

/-- One hexadecimal digit. -/
def hexDigit (n : Nat) : String :=
  (["0", "1", "2", "3", "4", "5", "6", "7", "8", "9", "A", "B", "C", "D", "E", "F"][n % 16]?).getD "0"

/-- A Byte as two hexadecimal digits. -/
def hexByte (b : Byte) : String := hexDigit (b.toNat / 16) ++ hexDigit b.toNat

/-- A Word as four hexadecimal digits. -/
def hexWord (w : Word) : String := hexByte (hi w) ++ hexByte (lo w)

/-- An operand in assembler syntax, with `$` for hexadecimal (R98); a branch at `addr` is written with its target. -/
def operandText (addr : Word) : Operand → String
  | .implied => ""
  | .accumulator => " A"
  | .immediate v => " #$" ++ hexByte v
  | .zeroPage z => " $" ++ hexByte z
  | .zeroPageX z => " $" ++ hexByte z ++ ",X"
  | .zeroPageY z => " $" ++ hexByte z ++ ",Y"
  | .absolute w => " $" ++ hexWord w
  | .absoluteX w => " $" ++ hexWord w ++ ",X"
  | .absoluteY w => " $" ++ hexWord w ++ ",Y"
  | .indirect w => " ($" ++ hexWord w ++ ")"
  | .indirectX z => " ($" ++ hexByte z ++ ",X)"
  | .indirectY z => " ($" ++ hexByte z ++ "),Y"
  | .relative off => " $" ++ hexWord (addr + 2 + sext off)

/-- An instruction in assembler syntax (R98). -/
def instrText (addr : Word) (i : Instr) : String :=
  mnemonicText i.operation ++ operandText addr i.operand

end Sys2Proof.Machine
end

