-- ==== Sys2Proof/Machine/HostSurface.lean ====
section
/-! DEFINITION. The host surface, "exactly: power(), step(), read accessors, forceStatus(flags) and the register-load
helpers" (R270). Every call falls between two steps; the host has no other move (R274). -/

namespace Sys2Proof.Machine

/-- A read accessor's answer: refused before the first power-on (R234, R271); available while Running or Faulted
(R235). -/
def State.access {α : Type} (s : State) (v : α) : Except Refusal α :=
  match s.mode with
  | .unpowered => .error .notPowered
  | .running => .ok v
  | .faulted _ => .ok v

/-- The accessor "accumulator" (R271). -/
def readA (s : State) : Except Refusal Byte := s.access s.a

/-- The accessor "X" (R271). -/
def readX (s : State) : Except Refusal Byte := s.access s.x

/-- The accessor "Y" (R271). -/
def readY (s : State) : Except Refusal Byte := s.access s.y

/-- The accessor "status": all eight bits of P (R271). -/
def readStatus (s : State) : Except Refusal Byte := s.access s.p

/-- The accessor "program counter" (R271). -/
def readPc (s : State) : Except Refusal Word := s.access s.pc

/-- The accessor "elapsed cycles" (R271). -/
def readCycles (s : State) : Except Refusal Nat := s.access s.cycles

/-- `forceStatus(flags)` (R273): all eight bits of P, and nothing else. -/
def forceStatus (s : State) (flags : Byte) : State := s.setP (forceFlags s.p flags)

/-- A call of the host surface. A use of `forceStatus` or of a register-load helper is a host action, never an
instruction (R273). There is no call that reads or sets SP, sets PC, or injects an interrupt (R274). -/
inductive HostCall where
  | power
  | step
  | readA
  | readX
  | readY
  | readStatus
  | readPc
  | readCycles
  | setA (v : Byte)
  | setX (v : Byte)
  | setY (v : Byte)
  | forceStatus (flags : Byte)
  deriving DecidableEq, Repr

/-- What a host call reports. -/
inductive HostReply where
  /-- The call completed and reports nothing. -/
  | done
  | byte (v : Byte)
  | word (v : Word)
  | count (n : Nat)
  /-- The call raised an error (R230). -/
  | raised (r : FaultReason)
  /-- The call was refused (R234). -/
  | refused (r : Refusal)
  deriving DecidableEq, Repr

/-- A call that runs the machine: what it reports, and the state it leaves, which a fault carries (R231, R233). -/
def runCall (s : State) (o : Host.Outcome State Fault Refusal) : HostReply × State :=
  match o with
  | .next t => (.done, t)
  | .fault (.decodeError op a left) => (.raised (.decodeError op a), left)
  | .fault (.busError e left) => (.raised (.busError e), left)
  | .refused r => (.refused r, s)

/-- A read accessor: what it reports; the state is unchanged (R271). -/
def readCall {α : Type} (s : State) (wrap : α → HostReply) (r : Except Refusal α) : HostReply × State :=
  match r with
  | .ok v => (wrap v, s)
  | .error e => (.refused e, s)

/-- A host call: what it reports, and the state it leaves (R270 to R273). The register-load helpers and `forceStatus`
are stated with no lifecycle condition (log entry 7). -/
def hostCall (c : HostCall) (s : State) : HostReply × State :=
  match c with
  | .power => runCall s (power s)
  | .step => runCall s (step s)
  | .readA => readCall s .byte (readA s)
  | .readX => readCall s .byte (readX s)
  | .readY => readCall s .byte (readY s)
  | .readStatus => readCall s .byte (readStatus s)
  | .readPc => readCall s .word (readPc s)
  | .readCycles => readCall s .count (readCycles s)
  | .setA v => (.done, s.setA v)
  | .setX v => (.done, s.setX v)
  | .setY v => (.done, s.setY v)
  | .forceStatus flags => (.done, forceStatus s flags)

/-- The replies a list of host calls gives, and the state it leaves. -/
def hostRun : List HostCall → State → List HostReply × State
  | [], s => ([], s)
  | c :: cs, s =>
    let r := hostCall c s
    let rest := hostRun cs r.2
    (r.1 :: rest.1, rest.2)

end Sys2Proof.Machine
end

