-- ==== Sys2Proof/Safety.lean ====
section
/-! DEFINITION. The terms the statements use: what a completing and a raising instruction leave, in terms of the spec's
own words; the tables of R33, R55, R99, R100, R113 and R210 as the statements compare the machine with them; a bus that
raises no error; the invariant of the state. -/

namespace Sys2Proof.Machine

/-! The table. -/

/-- The encoding lines of an operation: opcode byte, mode, length and base cycles of each of its rows (R99). -/
def rowsOf (op : Operation) : List (Byte × AddressMode × Nat × Nat) :=
  (opcodeTable.filter (fun r => decide (r.operation = op))).map fun r => (r.byte, r.mode, r.length, r.base)

/-- The 105 undefined bytes, as R100 lists them. -/
def undefinedOpcodes : List Byte :=
  [0x02, 0x03, 0x04, 0x07, 0x0B, 0x0C, 0x0F, 0x12, 0x13, 0x14, 0x17, 0x1A, 0x1B, 0x1C, 0x1F, 0x22, 0x23, 0x27, 0x2B,
   0x2F, 0x32, 0x33, 0x34, 0x37, 0x3A, 0x3B, 0x3C, 0x3F, 0x42, 0x43, 0x44, 0x47, 0x4B, 0x4F, 0x52, 0x53, 0x54, 0x57,
   0x5A, 0x5B, 0x5C, 0x5F, 0x62, 0x63, 0x64, 0x67, 0x6B, 0x6F, 0x72, 0x73, 0x74, 0x77, 0x7A, 0x7B, 0x7C, 0x7F, 0x80,
   0x82, 0x83, 0x87, 0x89, 0x8B, 0x8F, 0x92, 0x93, 0x97, 0x9B, 0x9C, 0x9E, 0x9F, 0xA3, 0xA7, 0xAB, 0xAF, 0xB2, 0xB3,
   0xB7, 0xBB, 0xBF, 0xC2, 0xC3, 0xC7, 0xCB, 0xCF, 0xD2, 0xD3, 0xD4, 0xD7, 0xDA, 0xDB, 0xDC, 0xDF, 0xE2, 0xE3, 0xE7,
   0xEB, 0xEF, 0xF2, 0xF3, 0xF4, 0xF7, 0xFA, 0xFB, 0xFC, 0xFF]

/-! Completing and raising. -/

/-- The byte memory holds at an address, read with no access made. -/
def State.stored (s : State) (a : Word) : Byte := s.bus.stored a

/-- The state in which an instruction that started in `s` completes with no control transfer: the registers of `t`, PC
past the instruction (R112), its base cycles and penalty charged (R113), and the bus `b`. -/
def completed (i : Instr) (s : State) (penalty : Nat) (b : Bus) (t : State) : State :=
  { t with pc := s.pc + BitVec.ofNat 16 i.length, cycles := s.cycles + i.base + penalty, bus := b }

/-- The state in which an instruction completes with `PC <- target` (R17). -/
def transferred (i : Instr) (s : State) (penalty : Nat) (target : Word) (b : Bus) (t : State) : State :=
  { t with pc := target, cycles := s.cycles + i.base + penalty, bus := b }

/-- The outcome of a step that started in `s` and in which the bus raised `e` (R233, R236): nothing committed, the
accesses made stand, the fault recorded. -/
def raisedBy (s : State) (e : Nat) (b : Bus) : Host.Outcome State Fault Refusal :=
  .fault (.busError e { s with bus := b, mode := .faulted (.busError e) })

/-- P with these eight flags. -/
def HasFlags (p : Byte) (flags : Flag → Bool) : Prop := ∀ f, testFlag p f = flags f

/-- A write of `v` at `a` from bus `b` to bus `b1` leaves every other byte of memory alone, and memory holds `v` at `a`
where the map says memory (in a canonical memory). -/
def StoredByte (b b1 : Bus) (a : Word) (v : Byte) : Prop :=
  (∀ k, k ≠ a → b1.stored k = b.stored k) ∧
    (Memory.wf b.cells = true → b.writeRule a = .cells → b1.stored a = v)

/-- Every instruction of the operation reads its operand and completes with the registers `effect` gives for the byte
read, all of memory unchanged; or ends with the bus's error, in every form. -/
def ReadsThen (op : Operation) (penalty : Resolved → Nat) (effect : Byte → State → State → Prop) : Prop :=
  ∀ (i : Instr) (s : State), i.operation = op →
    (∀ r m b, readOperand i.operand s s.bus = .ok (r, m) b →
      ∃ t, effect m s t ∧ exec i s = .next (completed i s (penalty r) b t) ∧ ∀ a, b.stored a = s.bus.stored a) ∧
    (∀ e b, readOperand i.operand s s.bus = .raised e b → exec i s = raisedBy s e b)

/-- Every instruction of the operation writes the byte `value` of its state at the address its operand resolves to and
completes with no register changed; or ends with the error of that write. -/
def StoresByte (op : Operation) (value : State → Byte) : Prop :=
  ∀ (i : Instr) (s : State), i.operation = op →
    ∀ a c b, operandAddress i.operand s s.bus = .ok (a, c) b →
      (∀ b1, b.write a (value s) = .ok () b1 →
        exec i s = .next (completed i s 0 b1 s) ∧ StoredByte s.bus b1 a (value s)) ∧
      (∀ e b1, b.write a (value s) = .raised e b1 → exec i s = raisedBy s e b1)

/-- Every memory form of the operation resolves to an address with no bus access, reads the byte there, then writes
`result` of it there, with the flags `flags`; or ends with the bus's error at the access that raised it, a read error
before any write. -/
def ModifiesMemory (op : Operation) (result : Byte → State → Byte) (flags : Byte → State → Flag → Bool) : Prop :=
  ∀ (i : Instr) (s : State), i.operation = op → i.operand ≠ .accumulator →
    ∃ a c, operandAddress i.operand s s.bus = .ok (a, c) s.bus ∧
      (∀ v b1, s.bus.read a = .ok v b1 →
        (∀ b2, b1.write a (result v s) = .ok () b2 →
          ∃ p, HasFlags p (flags v s) ∧ exec i s = .next (completed i s 0 b2 { s with p := p }) ∧
            StoredByte s.bus b2 a (result v s)) ∧
        (∀ e b2, b1.write a (result v s) = .raised e b2 → exec i s = raisedBy s e b2)) ∧
      (∀ e b1, s.bus.read a = .raised e b1 → exec i s = raisedBy s e b1)

/-- The Accumulator form of the operation reads and writes A with no bus access. -/
def ModifiesA (op : Operation) (result : Byte → State → Byte) (flags : Byte → State → Flag → Bool) : Prop :=
  ∀ (i : Instr) (s : State), i.operation = op → i.operand = .accumulator →
    ∃ p, HasFlags p (flags s.a s) ∧
      exec i s = .next (completed i s 0 s.bus { s with a := result s.a s, p := p })

/-- The instruction completes with these registers, all of memory and the bus unchanged. -/
def CompletesWith (i : Instr) (effect : State → State → Prop) : Prop :=
  ∀ s : State, ∃ t, effect s t ∧ exec i s = .next (completed i s 0 s.bus t)

/-! The tables of the whole machine. -/

/-- Whether an operation may write a flag: the columns of R33 that are not `-`. -/
def writesFlag : Operation → Flag → Bool
  | .adc, f | .sbc, f => decide (f ∈ [Flag.n, .v, .z, .c])
  | .and, f | .ora, f | .eor, f => decide (f ∈ [Flag.n, .z])
  | .bit, f => decide (f ∈ [Flag.n, .v, .z])
  | .cmp, f | .cpx, f | .cpy, f => decide (f ∈ [Flag.n, .z, .c])
  | .inc, f | .dec, f | .inx, f | .iny, f | .dex, f | .dey, f => decide (f ∈ [Flag.n, .z])
  | .asl, f | .rol, f | .ror, f | .lsr, f => decide (f ∈ [Flag.n, .z, .c])
  | .lda, f | .ldx, f | .ldy, f => decide (f ∈ [Flag.n, .z])
  | .tax, f | .tay, f | .txa, f | .tya, f | .tsx, f | .pla, f => decide (f ∈ [Flag.n, .z])
  | .sta, _ | .stx, _ | .sty, _ | .txs, _ | .pha, _ | .php, _ => false
  | .plp, f | .rti, f => decide (f ∈ [Flag.n, .v, .d, .i, .z, .c])
  | .clc, f | .sec, f => decide (f = Flag.c)
  | .cli, f | .sei, f => decide (f = Flag.i)
  | .cld, f | .sed, f => decide (f = Flag.d)
  | .clv, f => decide (f = Flag.v)
  | .brk, f => decide (f = Flag.i)
  | .jmp, _ | .jsr, _ | .rts, _ | .nop, _ => false
  | .bpl, _ | .bmi, _ | .bvc, _ | .bvs, _ | .bcc, _ | .bcs, _ | .bne, _ | .beq, _ => false

/-- The condition of a branch (R211 to R218); none for another operation. -/
def branchTaken (s : State) : Operation → Option Bool
  | .bpl => some (s.flag .n == false)
  | .bmi => some (s.flag .n == true)
  | .bvc => some (s.flag .v == false)
  | .bvs => some (s.flag .v == true)
  | .bcc => some (s.flag .c == false)
  | .bcs => some (s.flag .c == true)
  | .bne => some (s.flag .z == false)
  | .beq => some (s.flag .z == true)
  | _ => none

/-- The read instructions that pay for a page cross (R113). -/
def paysPageCross (op : Operation) : Bool :=
  decide (op ∈ [Operation.lda, .ldx, .ldy, .adc, .sbc, .and, .ora, .eor, .cmp])

/-- The penalty of R113, given whether the resolver reported a page cross. -/
def stepPenalty (op : Operation) (s : State) (crossed : Bool) : Nat :=
  match branchTaken s op with
  | some true => if crossed then 2 else 1
  | some false => 0
  | none => if paysPageCross op && crossed then 1 else 0

/-- The control-flow operations (R8). -/
def controlFlow (op : Operation) : Bool :=
  decide (op ∈ [Operation.bpl, .bmi, .bvc, .bvs, .bcc, .bcs, .bne, .beq, .jmp, .jsr, .rts, .brk, .rti])

/-- The operations that write SP (R23). -/
def writesSp (op : Operation) : Bool :=
  decide (op ∈ [Operation.txs, .pha, .php, .pla, .plp, .jsr, .rts, .brk, .rti])

/-- The kind of a bus access. -/
inductive AccessKind where
  | read
  | write
  deriving DecidableEq, Repr

/-- The kind of an access in the history. -/
def accessKind : BusAccess → AccessKind
  | .read _ _ => .read
  | .readRaised _ _ => .read
  | .write _ _ => .write
  | .writeRaised _ _ _ => .write

/-- The address of an access in the history. -/
def accessAddr : BusAccess → Word
  | .read a _ => a
  | .readRaised a _ => a
  | .write a _ => a
  | .writeRaised a _ _ => a

/-- The error of an access at which the bus raised one (R233). -/
def accessError : BusAccess → Option Nat
  | .read _ _ => none
  | .readRaised _ e => some e
  | .write _ _ => none
  | .writeRaised _ _ e => some e

/-- An access, as its kind and its address. -/
def accessAt (x : BusAccess) : AccessKind × Word := (accessKind x, accessAddr x)

/-- `n` reads at consecutive addresses, modulo 65536: the opcode fetch and the operand bytes (R110, R86 to R94). -/
def fetchAccesses (pc : Word) (n : Nat) : List (AccessKind × Word) :=
  (List.range n).map fun k => (.read, pc + BitVec.ofNat 16 k)

/-- The pointer reads of the resolver, low byte first (R91, R92, R93). -/
def pointerAccesses (s : State) : Operand → List (AccessKind × Word)
  | .indirect w => [(.read, w), (.read, concat (hi w) (lo w + 1))]
  | .indirectX z => [(.read, zext (z + s.x)), (.read, zext (z + s.x + 1))]
  | .indirectY z => [(.read, zext z), (.read, zext (z + 1))]
  | _ => []

/-- Accesses at the address an operand resolved to; none for an immediate, the accumulator or no operand (R97). -/
def targetAccesses (kinds : List AccessKind) : Target → List (AccessKind × Word)
  | .address a => kinds.map fun k => (k, a)
  | .immediate _ => []
  | .accumulator => []
  | .noOperand => []

/-- The address in the stack page for a stack pointer (R62). -/
def stackSlot (s : State) (n : Byte) : Word := concat s.params.stackPage n

/-- The data, stack and vector accesses of an instruction's rule, in its order, given what its operand resolved to
(R55): pushes go down from SP, pulls go up from SP + 1, and the vector's low byte comes first (R56, R62). -/
def dataAccesses (s : State) : Operation → Target → List (AccessKind × Word)
  | .adc, t | .sbc, t | .cmp, t | .cpx, t | .cpy, t | .eor, t | .and, t | .ora, t | .bit, t => targetAccesses [.read] t
  | .lda, t | .ldx, t | .ldy, t => targetAccesses [.read] t
  | .sta, t | .stx, t | .sty, t => targetAccesses [.write] t
  | .inc, t | .dec, t | .lsr, t | .asl, t | .rol, t | .ror, t => targetAccesses [.read, .write] t
  | .pha, _ | .php, _ => [(.write, stackSlot s s.sp)]
  | .pla, _ | .plp, _ => [(.read, stackSlot s (s.sp + 1))]
  | .jsr, _ => [(.write, stackSlot s s.sp), (.write, stackSlot s (s.sp - 1))]
  | .rts, _ => [(.read, stackSlot s (s.sp + 1)), (.read, stackSlot s (s.sp + 2))]
  | .brk, _ =>
    [(.write, stackSlot s s.sp), (.write, stackSlot s (s.sp - 1)), (.write, stackSlot s (s.sp - 2)),
      (.read, s.params.brkVector), (.read, s.params.brkVector + 1)]
  | .rti, _ =>
    [(.read, stackSlot s (s.sp + 1)), (.read, stackSlot s (s.sp + 2)), (.read, stackSlot s (s.sp + 3))]
  | _, _ => []

/-! Bytes at PC. -/

/-- `n` bus reads at consecutive addresses, wrapping modulo 65536 (R80). -/
def Bus.readAll (b : Bus) (a : Word) : Nat → BusResult (List Byte)
  | 0 => .ok [] b
  | n + 1 => (b.read a).andThen fun v b1 => (b1.readAll (a + 1) n).andThen fun vs b2 => .ok (v :: vs) b2

/-! A bus that raises no error, and the invariant. -/

/-- A window at which the bus never raises an error. -/
def Window.neverRaises (w : Window) : Bool :=
  (match w.onRead with
    | .cells | .device => true
    | .fallible | .raises _ => false) &&
  (match w.onWrite with
    | .cells | .absorbed => true
    | .fallible | .raises _ => false)

/-- A bus that raises no error, whatever the core does. -/
def Bus.NeverRaises (b : Bus) : Prop := b.windows.all Window.neverRaises = true

/-- The invariant of the state: the memory is in canonical form. -/
def State.Inv (s : State) : Prop := Memory.wf s.bus.cells = true

/-- Whether the map says memory, for reads and writes, at an address. -/
def Bus.IsRam (b : Bus) (a : Word) : Prop := b.readRule a = .cells ∧ b.writeRule a = .cells

end Sys2Proof.Machine
end

