-- ==== Sys2Proof/Certificates/Slice0/Obligations.lean ====
section
/-! DEFINITION. The statements for the provers, from the numbered rules of the spec. Each one's docstring says which rule
it formalises. -/

open Sys2Proof Sys2Proof.Machine

/-- ADC: A gets A + M + C, with N, V, Z, C, in every mode and whatever D is (R132). -/
def Obligations.AdcAddsWithCarry : Prop :=
  rowsOf .adc = [(0x61, .indirectX, 2, 6), (0x65, .zeroPage, 2, 3), (0x69, .immediate, 2, 2),
   (0x6D, .absolute, 3, 4), (0x71, .indirectY, 2, 5), (0x75, .zeroPageX, 2, 4), (0x79, .absoluteY, 3, 4),
   (0x7D, .absoluteX, 3, 4)] ∧
  ReadsThen .adc crossPenalty fun m s t =>
    let sum := s.a.toNat + m.toNat + (s.flag .c).toNat
    ∃ p, t = { s with a := BitVec.ofNat 8 sum, p := p } ∧
      HasFlags p fun f =>
        match f with
        | .n => (BitVec.ofNat 8 sum).getLsbD 7
        | .v => (s.a.getLsbD 7 == m.getLsbD 7) && ((BitVec.ofNat 8 sum).getLsbD 7 != s.a.getLsbD 7)
        | .z => BitVec.ofNat 8 sum == 0
        | .c => decide (256 ≤ sum)
        | g => s.flag g

/-- SBC: A gets A - M - (1 - C), with N, V, Z, C, in every mode (R133). -/
def Obligations.SbcSubtractsWithBorrow : Prop :=
  rowsOf .sbc = [(0xE1, .indirectX, 2, 6), (0xE5, .zeroPage, 2, 3), (0xE9, .immediate, 2, 2),
   (0xED, .absolute, 3, 4), (0xF1, .indirectY, 2, 5), (0xF5, .zeroPageX, 2, 4), (0xF9, .absoluteY, 3, 4),
   (0xFD, .absoluteX, 3, 4)] ∧
  ReadsThen .sbc crossPenalty fun m s t =>
    let borrow := 1 - (s.flag .c).toNat
    let r : Byte := s.a - m - BitVec.ofNat 8 borrow
    ∃ p, t = { s with a := r, p := p } ∧
      HasFlags p fun f =>
        match f with
        | .n => r.getLsbD 7
        | .v => (s.a.getLsbD 7 != m.getLsbD 7) && (r.getLsbD 7 != s.a.getLsbD 7)
        | .z => r == 0
        | .c => decide (m.toNat + borrow ≤ s.a.toNat)
        | g => s.flag g

/-- CMP, CPX and CPY: C, Z and N from the unsigned comparison, nothing else (R131, R134, R135, R136). -/
def Obligations.ComparesSetFlags : Prop :=
  rowsOf .cmp = [(0xC1, .indirectX, 2, 6), (0xC5, .zeroPage, 2, 3), (0xC9, .immediate, 2, 2),
   (0xCD, .absolute, 3, 4), (0xD1, .indirectY, 2, 5), (0xD5, .zeroPageX, 2, 4), (0xD9, .absoluteY, 3, 4),
   (0xDD, .absoluteX, 3, 4)] ∧
  rowsOf .cpx = [(0xE0, .immediate, 2, 2), (0xE4, .zeroPage, 2, 3), (0xEC, .absolute, 3, 4)] ∧
  rowsOf .cpy = [(0xC0, .immediate, 2, 2), (0xC4, .zeroPage, 2, 3), (0xCC, .absolute, 3, 4)] ∧
  ReadsThen .cmp crossPenalty (fun m s t => ∃ p, t = { s with p := p } ∧
      HasFlags p fun f =>
        match f with
        | .n => (s.a - m).getLsbD 7
        | .z => s.a == m
        | .c => decide (m.toNat ≤ s.a.toNat)
        | g => s.flag g) ∧
  ReadsThen .cpx noPenalty (fun m s t => ∃ p, t = { s with p := p } ∧
      HasFlags p fun f =>
        match f with
        | .n => (s.x - m).getLsbD 7
        | .z => s.x == m
        | .c => decide (m.toNat ≤ s.x.toNat)
        | g => s.flag g) ∧
  ReadsThen .cpy noPenalty (fun m s t => ∃ p, t = { s with p := p } ∧
      HasFlags p fun f =>
        match f with
        | .n => (s.y - m).getLsbD 7
        | .z => s.y == m
        | .c => decide (m.toNat ≤ s.y.toNat)
        | g => s.flag g)

/-- INC and DEC: one read and one write of the byte plus or minus 1, with N and Z (R137, R138). -/
def Obligations.IncDecModifyMemory : Prop :=
  rowsOf .inc = [(0xE6, .zeroPage, 2, 5), (0xEE, .absolute, 3, 6), (0xF6, .zeroPageX, 2, 6), (0xFE, .absoluteX, 3, 7)] ∧
  rowsOf .dec = [(0xC6, .zeroPage, 2, 5), (0xCE, .absolute, 3, 6), (0xD6, .zeroPageX, 2, 6), (0xDE, .absoluteX, 3, 7)] ∧
  ModifiesMemory .inc (fun v _ => v + 1) (fun v s f =>
    match f with
    | .n => (v + 1).getLsbD 7
    | .z => (v + 1) == 0
    | g => s.flag g) ∧
  ModifiesMemory .dec (fun v _ => v - 1) (fun v s f =>
    match f with
    | .n => (v - 1).getLsbD 7
    | .z => (v - 1) == 0
    | g => s.flag g)

/-- INX, INY, DEX, DEY: the index register plus or minus 1 modulo 256, with N and Z (R139, R140, R141, R142). -/
def Obligations.IncDecIndexRegisters : Prop :=
  rowsOf .inx = [(0xE8, .implied, 1, 2)] ∧
  rowsOf .iny = [(0xC8, .implied, 1, 2)] ∧
  rowsOf .dex = [(0xCA, .implied, 1, 2)] ∧
  rowsOf .dey = [(0x88, .implied, 1, 2)] ∧
  CompletesWith .inx (fun s t => ∃ p, t = { s with x := s.x + 1, p := p } ∧
      HasFlags p fun f =>
        match f with
        | .n => (s.x + 1).getLsbD 7
        | .z => (s.x + 1 : Byte) == 0
        | g => s.flag g) ∧
  CompletesWith .iny (fun s t => ∃ p, t = { s with y := s.y + 1, p := p } ∧
      HasFlags p fun f =>
        match f with
        | .n => (s.y + 1).getLsbD 7
        | .z => (s.y + 1 : Byte) == 0
        | g => s.flag g) ∧
  CompletesWith .dex (fun s t => ∃ p, t = { s with x := s.x - 1, p := p } ∧
      HasFlags p fun f =>
        match f with
        | .n => (s.x - 1).getLsbD 7
        | .z => (s.x - 1 : Byte) == 0
        | g => s.flag g) ∧
  CompletesWith .dey (fun s t => ∃ p, t = { s with y := s.y - 1, p := p } ∧
      HasFlags p fun f =>
        match f with
        | .n => (s.y - 1).getLsbD 7
        | .z => (s.y - 1 : Byte) == 0
        | g => s.flag g)

/-- EOR, AND, ORA: the bitwise result in A, with N and Z, in every mode (R150, R151, R152). -/
def Obligations.LogicOnAccumulator : Prop :=
  rowsOf .eor = [(0x41, .indirectX, 2, 6), (0x45, .zeroPage, 2, 3), (0x49, .immediate, 2, 2),
   (0x4D, .absolute, 3, 4), (0x51, .indirectY, 2, 5), (0x55, .zeroPageX, 2, 4), (0x59, .absoluteY, 3, 4),
   (0x5D, .absoluteX, 3, 4)] ∧
  rowsOf .and = [(0x21, .indirectX, 2, 6), (0x25, .zeroPage, 2, 3), (0x29, .immediate, 2, 2),
   (0x2D, .absolute, 3, 4), (0x31, .indirectY, 2, 5), (0x35, .zeroPageX, 2, 4), (0x39, .absoluteY, 3, 4),
   (0x3D, .absoluteX, 3, 4)] ∧
  rowsOf .ora = [(0x01, .indirectX, 2, 6), (0x05, .zeroPage, 2, 3), (0x09, .immediate, 2, 2),
   (0x0D, .absolute, 3, 4), (0x11, .indirectY, 2, 5), (0x15, .zeroPageX, 2, 4), (0x19, .absoluteY, 3, 4),
   (0x1D, .absoluteX, 3, 4)] ∧
  ReadsThen .eor crossPenalty (fun m s t => ∃ p, t = { s with a := s.a ^^^ m, p := p } ∧
      HasFlags p fun f =>
        match f with
        | .n => (s.a ^^^ m).getLsbD 7
        | .z => (s.a ^^^ m) == 0
        | g => s.flag g) ∧
  ReadsThen .and crossPenalty (fun m s t => ∃ p, t = { s with a := s.a &&& m, p := p } ∧
      HasFlags p fun f =>
        match f with
        | .n => (s.a &&& m).getLsbD 7
        | .z => (s.a &&& m) == 0
        | g => s.flag g) ∧
  ReadsThen .ora crossPenalty (fun m s t => ∃ p, t = { s with a := s.a ||| m, p := p } ∧
      HasFlags p fun f =>
        match f with
        | .n => (s.a ||| m).getLsbD 7
        | .z => (s.a ||| m) == 0
        | g => s.flag g)

/-- BIT: N and V from the operand, Z from A AND M, nothing else (R153). -/
def Obligations.BitTestsMemory : Prop :=
  rowsOf .bit = [(0x24, .zeroPage, 2, 3), (0x2C, .absolute, 3, 4)] ∧
  ReadsThen .bit noPenalty fun m s t => ∃ p, t = { s with p := p } ∧
    HasFlags p fun f =>
      match f with
      | .n => m.getLsbD 7
      | .v => m.getLsbD 6
      | .z => (s.a &&& m) == 0
      | g => s.flag g

/-- LSR and ASL on A and on memory: a 0 enters, C gets the bit shifted out, V unchanged (R161, R162). -/
def Obligations.ShiftsMoveBits : Prop :=
  rowsOf .lsr = [(0x46, .zeroPage, 2, 5), (0x4A, .accumulator, 1, 2), (0x4E, .absolute, 3, 6),
   (0x56, .zeroPageX, 2, 6), (0x5E, .absoluteX, 3, 7)] ∧
  rowsOf .asl = [(0x06, .zeroPage, 2, 5), (0x0A, .accumulator, 1, 2), (0x0E, .absolute, 3, 6),
   (0x16, .zeroPageX, 2, 6), (0x1E, .absoluteX, 3, 7)] ∧
  ModifiesA .lsr (fun v _ => v >>> 1) (fun v s f =>
    match f with
    | .n => false
    | .z => (v >>> 1) == 0
    | .c => v.getLsbD 0
    | g => s.flag g) ∧
  ModifiesMemory .lsr (fun v _ => v >>> 1) (fun v s f =>
    match f with
    | .n => false
    | .z => (v >>> 1) == 0
    | .c => v.getLsbD 0
    | g => s.flag g) ∧
  ModifiesA .asl (fun v _ => v <<< 1) (fun v s f =>
    match f with
    | .n => (v <<< 1).getLsbD 7
    | .z => (v <<< 1) == 0
    | .c => v.getLsbD 7
    | g => s.flag g) ∧
  ModifiesMemory .asl (fun v _ => v <<< 1) (fun v s f =>
    match f with
    | .n => (v <<< 1).getLsbD 7
    | .z => (v <<< 1) == 0
    | .c => v.getLsbD 7
    | g => s.flag g)

/-- ROL and ROR on A and on memory: the old C enters, C gets the bit rotated out (R163, R164). -/
def Obligations.RotatesGoThroughCarry : Prop :=
  rowsOf .rol = [(0x26, .zeroPage, 2, 5), (0x2A, .accumulator, 1, 2), (0x2E, .absolute, 3, 6),
   (0x36, .zeroPageX, 2, 6), (0x3E, .absoluteX, 3, 7)] ∧
  rowsOf .ror = [(0x66, .zeroPage, 2, 5), (0x6A, .accumulator, 1, 2), (0x6E, .absolute, 3, 6),
   (0x76, .zeroPageX, 2, 6), (0x7E, .absoluteX, 3, 7)] ∧
  ModifiesA .rol (fun v s => (v <<< 1) ||| (if s.flag .c then 0x01 else 0x00)) (fun v s f =>
    match f with
    | .n => ((v <<< 1) ||| (if s.flag .c then 0x01 else 0x00)).getLsbD 7
    | .z => ((v <<< 1) ||| (if s.flag .c then 0x01 else 0x00)) == 0
    | .c => v.getLsbD 7
    | g => s.flag g) ∧
  ModifiesMemory .rol (fun v s => (v <<< 1) ||| (if s.flag .c then 0x01 else 0x00)) (fun v s f =>
    match f with
    | .n => ((v <<< 1) ||| (if s.flag .c then 0x01 else 0x00)).getLsbD 7
    | .z => ((v <<< 1) ||| (if s.flag .c then 0x01 else 0x00)) == 0
    | .c => v.getLsbD 7
    | g => s.flag g) ∧
  ModifiesA .ror (fun v s => (v >>> 1) ||| (if s.flag .c then 0x80 else 0x00)) (fun v s f =>
    match f with
    | .n => ((v >>> 1) ||| (if s.flag .c then 0x80 else 0x00)).getLsbD 7
    | .z => ((v >>> 1) ||| (if s.flag .c then 0x80 else 0x00)) == 0
    | .c => v.getLsbD 0
    | g => s.flag g) ∧
  ModifiesMemory .ror (fun v s => (v >>> 1) ||| (if s.flag .c then 0x80 else 0x00)) (fun v s f =>
    match f with
    | .n => ((v >>> 1) ||| (if s.flag .c then 0x80 else 0x00)).getLsbD 7
    | .z => ((v >>> 1) ||| (if s.flag .c then 0x80 else 0x00)) == 0
    | .c => v.getLsbD 0
    | g => s.flag g)

/-- LDA, LDX, LDY: the register gets the operand, with N and Z, in every mode (R170, R171, R172). -/
def Obligations.LoadsWriteRegister : Prop :=
  rowsOf .lda = [(0xA1, .indirectX, 2, 6), (0xA5, .zeroPage, 2, 3), (0xA9, .immediate, 2, 2),
   (0xAD, .absolute, 3, 4), (0xB1, .indirectY, 2, 5), (0xB5, .zeroPageX, 2, 4), (0xB9, .absoluteY, 3, 4),
   (0xBD, .absoluteX, 3, 4)] ∧
  rowsOf .ldx = [(0xA2, .immediate, 2, 2), (0xA6, .zeroPage, 2, 3), (0xAE, .absolute, 3, 4),
   (0xB6, .zeroPageY, 2, 4), (0xBE, .absoluteY, 3, 4)] ∧
  rowsOf .ldy = [(0xA0, .immediate, 2, 2), (0xA4, .zeroPage, 2, 3), (0xAC, .absolute, 3, 4),
   (0xB4, .zeroPageX, 2, 4), (0xBC, .absoluteX, 3, 4)] ∧
  ReadsThen .lda crossPenalty (fun m s t => ∃ p, t = { s with a := m, p := p } ∧
      HasFlags p fun f =>
        match f with
        | .n => m.getLsbD 7
        | .z => m == 0
        | g => s.flag g) ∧
  ReadsThen .ldx crossPenalty (fun m s t => ∃ p, t = { s with x := m, p := p } ∧
      HasFlags p fun f =>
        match f with
        | .n => m.getLsbD 7
        | .z => m == 0
        | g => s.flag g) ∧
  ReadsThen .ldy crossPenalty (fun m s t => ∃ p, t = { s with y := m, p := p } ∧
      HasFlags p fun f =>
        match f with
        | .n => m.getLsbD 7
        | .z => m == 0
        | g => s.flag g)

/-- STA, STX, STY: one write of the register at the effective address, no flag, fixed cycles (decision D19 of the
spec) (R173, R174, R175). -/
def Obligations.StoresWriteMemory : Prop :=
  rowsOf .sta = [(0x81, .indirectX, 2, 6), (0x85, .zeroPage, 2, 3), (0x8D, .absolute, 3, 4),
   (0x91, .indirectY, 2, 6), (0x95, .zeroPageX, 2, 4), (0x99, .absoluteY, 3, 5), (0x9D, .absoluteX, 3, 5)] ∧
  rowsOf .stx = [(0x86, .zeroPage, 2, 3), (0x8E, .absolute, 3, 4), (0x96, .zeroPageY, 2, 4)] ∧
  rowsOf .sty = [(0x84, .zeroPage, 2, 3), (0x8C, .absolute, 3, 4), (0x94, .zeroPageX, 2, 4)] ∧
  StoresByte .sta (fun s => s.a) ∧ StoresByte .stx (fun s => s.x) ∧ StoresByte .sty (fun s => s.y) ∧
  ∀ (i : Instr) (s : State) (e : Nat) (b : Bus), i.operation = .sta →
    operandAddress i.operand s s.bus = .raised e b → exec i s = raisedBy s e b

/-- TAX, TAY, TXA, TYA, TSX with N and Z; TXS without (R176, R177, R178, R179, R180, R181). -/
def Obligations.TransfersCopyRegisters : Prop :=
  rowsOf .tax = [(0xAA, .implied, 1, 2)] ∧
  rowsOf .tay = [(0xA8, .implied, 1, 2)] ∧
  rowsOf .txa = [(0x8A, .implied, 1, 2)] ∧
  rowsOf .tya = [(0x98, .implied, 1, 2)] ∧
  rowsOf .tsx = [(0xBA, .implied, 1, 2)] ∧
  rowsOf .txs = [(0x9A, .implied, 1, 2)] ∧
  CompletesWith .tax (fun s t => ∃ p, t = { s with x := s.a, p := p } ∧
      HasFlags p fun f =>
        match f with
        | .n => s.a.getLsbD 7
        | .z => s.a == 0
        | g => s.flag g) ∧
  CompletesWith .tay (fun s t => ∃ p, t = { s with y := s.a, p := p } ∧
      HasFlags p fun f =>
        match f with
        | .n => s.a.getLsbD 7
        | .z => s.a == 0
        | g => s.flag g) ∧
  CompletesWith .txa (fun s t => ∃ p, t = { s with a := s.x, p := p } ∧
      HasFlags p fun f =>
        match f with
        | .n => s.x.getLsbD 7
        | .z => s.x == 0
        | g => s.flag g) ∧
  CompletesWith .tya (fun s t => ∃ p, t = { s with a := s.y, p := p } ∧
      HasFlags p fun f =>
        match f with
        | .n => s.y.getLsbD 7
        | .z => s.y == 0
        | g => s.flag g) ∧
  CompletesWith .tsx (fun s t => ∃ p, t = { s with x := s.sp, p := p } ∧
      HasFlags p fun f =>
        match f with
        | .n => s.sp.getLsbD 7
        | .z => s.sp == 0
        | g => s.flag g) ∧
  CompletesWith .txs (fun s t => t = { s with sp := s.x })

/-- PHA pushes A, PHP pushes P with bits 4 and 5 set; P is unchanged (decision D9 of the spec) (R190, R191). -/
def Obligations.PushesWriteStack : Prop :=
  rowsOf .pha = [(0x48, .implied, 1, 3)] ∧
  rowsOf .php = [(0x08, .implied, 1, 3)] ∧
  (∀ (s : State) (b : Bus), s.bus.write s.stackAddr (s.a) = .ok () b →
    exec .pha s = .next (completed .pha s 0 b { s with sp := s.sp - 1 }) ∧ StoredByte s.bus b s.stackAddr (s.a)) ∧
  (∀ (s : State) (e : Nat) (b : Bus), s.bus.write s.stackAddr (s.a) = .raised e b → exec .pha s = raisedBy s e b) ∧
  (∀ (s : State) (b : Bus), s.bus.write s.stackAddr (s.p ||| 0x30) = .ok () b →
    exec .php s = .next (completed .php s 0 b { s with sp := s.sp - 1 }) ∧ StoredByte s.bus b s.stackAddr (s.p ||| 0x30)) ∧
  (∀ (s : State) (e : Nat) (b : Bus), s.bus.write s.stackAddr (s.p ||| 0x30) = .raised e b → exec .php s = raisedBy s e b)

/-- PLA pulls A with N and Z; PLP pulls P and keeps bits 4 and 5 (decision D10 of the spec) (R192, R193). -/
def Obligations.PullsReadStack : Prop :=
  rowsOf .pla = [(0x68, .implied, 1, 4)] ∧
  rowsOf .plp = [(0x28, .implied, 1, 4)] ∧
  (∀ (s : State) (v : Byte) (b : Bus), s.bus.read (State.stackAddr { s with sp := s.sp + 1 }) = .ok v b →
    (∀ a, b.stored a = s.bus.stored a) ∧
    (∃ p, exec .pla s = .next (completed .pla s 0 b { s with sp := s.sp + 1, a := v, p := p }) ∧
      HasFlags p fun f =>
        match f with
        | .n => v.getLsbD 7
        | .z => v == 0
        | g => s.flag g) ∧
    (∃ p, exec .plp s = .next (completed .plp s 0 b { s with sp := s.sp + 1, p := p }) ∧
      HasFlags p fun f =>
        match f with
        | .b => s.flag .b
        | .u => s.flag .u
        | g => testFlag v g)) ∧
  (∀ (s : State) (e : Nat) (b : Bus), s.bus.read (State.stackAddr { s with sp := s.sp + 1 }) = .raised e b →
    exec .pla s = raisedBy s e b ∧ exec .plp s = raisedBy s e b)

/-- CLC, SEC, CLI, SEI, CLD, SED, CLV write exactly one flag (R200, R201, R202, R203, R204, R205, R206). -/
def Obligations.FlagInstructionsWriteOneFlag : Prop :=
  rowsOf .clc = [(0x18, .implied, 1, 2)] ∧
  rowsOf .sec = [(0x38, .implied, 1, 2)] ∧
  rowsOf .cli = [(0x58, .implied, 1, 2)] ∧
  rowsOf .sei = [(0x78, .implied, 1, 2)] ∧
  rowsOf .cld = [(0xD8, .implied, 1, 2)] ∧
  rowsOf .sed = [(0xF8, .implied, 1, 2)] ∧
  rowsOf .clv = [(0xB8, .implied, 1, 2)] ∧
  CompletesWith .clc (fun s t => ∃ p, t = { s with p := p } ∧ HasFlags p fun f => if f = .c then false else s.flag f) ∧
  CompletesWith .sec (fun s t => ∃ p, t = { s with p := p } ∧ HasFlags p fun f => if f = .c then true else s.flag f) ∧
  CompletesWith .cli (fun s t => ∃ p, t = { s with p := p } ∧ HasFlags p fun f => if f = .i then false else s.flag f) ∧
  CompletesWith .sei (fun s t => ∃ p, t = { s with p := p } ∧ HasFlags p fun f => if f = .i then true else s.flag f) ∧
  CompletesWith .cld (fun s t => ∃ p, t = { s with p := p } ∧ HasFlags p fun f => if f = .d then false else s.flag f) ∧
  CompletesWith .sed (fun s t => ∃ p, t = { s with p := p } ∧ HasFlags p fun f => if f = .d then true else s.flag f) ∧
  CompletesWith .clv (fun s t => ∃ p, t = { s with p := p } ∧ HasFlags p fun f => if f = .v then false else s.flag f)

/-- The eight branches: condition, target, and 1 or 2 cycles more when taken (decision D18 of the spec) (R210, R211,
R212, R213, R214, R215, R216, R217, R218). -/
def Obligations.BranchesTakeTheirCondition : Prop :=
  rowsOf .bpl = [(0x10, .relative, 2, 2)] ∧
  rowsOf .bmi = [(0x30, .relative, 2, 2)] ∧
  rowsOf .bvc = [(0x50, .relative, 2, 2)] ∧
  rowsOf .bvs = [(0x70, .relative, 2, 2)] ∧
  rowsOf .bcc = [(0x90, .relative, 2, 2)] ∧
  rowsOf .bcs = [(0xB0, .relative, 2, 2)] ∧
  rowsOf .bne = [(0xD0, .relative, 2, 2)] ∧
  rowsOf .beq = [(0xF0, .relative, 2, 2)] ∧
  ∀ (i : Instr) (s : State) (taken : Bool), branchTaken s i.operation = some taken →
    ∃ (off : Byte) (target : Word), i.operand = .relative off ∧
      (target.toNat : Int) = ((s.pc.toNat : Int) + 2 + off.toInt) % 65536 ∧
      exec i s = .next
        (if taken then transferred i s (if hi (s.pc + 2) ≠ hi target then 2 else 1) target s.bus s
          else completed i s 0 s.bus s)

/-- JMP Absolute and Indirect, with the page wrap of the pointer (decision D7 of the spec) (R219). -/
def Obligations.JmpGoesToTarget : Prop :=
  rowsOf .jmp = [(0x4C, .absolute, 3, 3), (0x6C, .indirect, 3, 5)] ∧
  (∀ (w : Word) (s : State), exec (.jmpAbs w) s = .next (transferred (.jmpAbs w) s 0 w s.bus s)) ∧
  (∀ (w : Word) (s : State),
    (∀ (l h : Byte) (b1 b2 : Bus), s.bus.read w = .ok l b1 → b1.read (concat (hi w) (lo w + 1)) = .ok h b2 →
      exec (.jmpInd w) s = .next (transferred (.jmpInd w) s 0 (concat h l) b2 s) ∧
        ∀ a, b2.stored a = s.bus.stored a) ∧
    (∀ (e : Nat) (b1 : Bus), s.bus.read w = .raised e b1 → exec (.jmpInd w) s = raisedBy s e b1) ∧
    (∀ (l : Byte) (e : Nat) (b1 b2 : Bus), s.bus.read w = .ok l b1 →
      b1.read (concat (hi w) (lo w + 1)) = .raised e b2 → exec (.jmpInd w) s = raisedBy s e b2))

/-- JSR pushes PC + 2, high byte first, and goes to its operand (decision D5 of the spec) (R220). -/
def Obligations.JsrPushesReturnAddress : Prop :=
  rowsOf .jsr = [(0x20, .absolute, 3, 6)] ∧
  (∀ (w : Word) (s : State) (b1 b2 : Bus), s.bus.write s.stackAddr (hi (s.pc + 2)) = .ok () b1 →
    b1.write (State.stackAddr { s with sp := s.sp - 1 }) (lo (s.pc + 2)) = .ok () b2 →
    exec (.jsr w) s = .next (transferred (.jsr w) s 0 w b2 { s with sp := s.sp - 2 }) ∧
      (∀ k, k ≠ s.stackAddr → k ≠ State.stackAddr { s with sp := s.sp - 1 } → b2.stored k = s.bus.stored k) ∧
      (Memory.wf s.bus.cells = true → s.bus.IsRam s.stackAddr →
        s.bus.IsRam (State.stackAddr { s with sp := s.sp - 1 }) →
        b2.stored s.stackAddr = hi (s.pc + 2) ∧
          b2.stored (State.stackAddr { s with sp := s.sp - 1 }) = lo (s.pc + 2))) ∧
  (∀ (w : Word) (s : State) (e : Nat) (b : Bus), pushWord (s.pc + 2) s s.bus = .raised e b →
    exec (.jsr w) s = raisedBy s e b)

/-- RTS pulls the low then the high byte, and goes to the Word plus 1 (R221). -/
def Obligations.RtsReturnsPastTheCall : Prop :=
  rowsOf .rts = [(0x60, .implied, 1, 6)] ∧
  (∀ (s : State) (l h : Byte) (b1 b2 : Bus), s.bus.read (State.stackAddr { s with sp := s.sp + 1 }) = .ok l b1 →
    b1.read (State.stackAddr { s with sp := s.sp + 2 }) = .ok h b2 →
    exec .rts s = .next (transferred .rts s 0 (concat h l + 1) b2 { s with sp := s.sp + 2 }) ∧
      ∀ a, b2.stored a = s.bus.stored a) ∧
  (∀ (s : State) (e : Nat) (b : Bus), pullWord s s.bus = .raised e b → exec .rts s = raisedBy s e b)

/-- BRK pushes PC + 2 and P with bits 4 and 5, sets I, and goes to the vector (decision D4, D5, D11 of the spec)
(R222, R238). -/
def Obligations.BrkTakesTheTrap : Prop :=
  rowsOf .brk = [(0x00, .implied, 1, 7)] ∧ Params.hardware.brkVector = 0xFFFE ∧
  (∀ (s : State) (b1 b2 b3 b4 b5 : Bus) (l h : Byte),
    s.bus.write s.stackAddr (hi (s.pc + 2)) = .ok () b1 →
    b1.write (State.stackAddr { s with sp := s.sp - 1 }) (lo (s.pc + 2)) = .ok () b2 →
    b2.write (State.stackAddr { s with sp := s.sp - 2 }) (s.p ||| 0x30) = .ok () b3 →
    b3.read s.params.brkVector = .ok l b4 → b4.read (s.params.brkVector + 1) = .ok h b5 →
    (∃ p, exec .brk s = .next (transferred .brk s 0 (concat h l) b5 { s with sp := s.sp - 3, p := p }) ∧
      HasFlags p fun f => if f = .i then true else s.flag f) ∧
      (∀ k, k ≠ s.stackAddr → k ≠ State.stackAddr { s with sp := s.sp - 1 } →
        k ≠ State.stackAddr { s with sp := s.sp - 2 } → b5.stored k = s.bus.stored k) ∧
      (Memory.wf s.bus.cells = true → (∀ n : Byte, s.bus.IsRam (concat s.params.stackPage n)) →
        b5.stored s.stackAddr = hi (s.pc + 2) ∧
          b5.stored (State.stackAddr { s with sp := s.sp - 1 }) = lo (s.pc + 2) ∧
          b5.stored (State.stackAddr { s with sp := s.sp - 2 }) = (s.p ||| 0x30))) ∧
  (∀ (s : State) (e : Nat) (b : Bus), enterTrap (s.pc + 2) s.params.brkVector s s.bus = .raised e b →
    exec .brk s = raisedBy s e b)

/-- RTI pulls P, keeping bits 4 and 5, then PC with no 1 added (decision D10 of the spec) (R223). -/
def Obligations.RtiRestoresStatusAndPc : Prop :=
  rowsOf .rti = [(0x40, .implied, 1, 6)] ∧
  (∀ (s : State) (v l h : Byte) (b1 b2 b3 : Bus), s.bus.read (State.stackAddr { s with sp := s.sp + 1 }) = .ok v b1 →
    b1.read (State.stackAddr { s with sp := s.sp + 2 }) = .ok l b2 →
    b2.read (State.stackAddr { s with sp := s.sp + 3 }) = .ok h b3 →
    (∃ p, exec .rti s = .next (transferred .rti s 0 (concat h l) b3 { s with sp := s.sp + 3, p := p }) ∧
      HasFlags p fun f =>
        match f with
        | .b => s.flag .b
        | .u => s.flag .u
        | g => testFlag v g) ∧
      ∀ a, b3.stored a = s.bus.stored a) ∧
  (∀ (s : State) (e : Nat) (b : Bus), returnFromTrap s s.bus = .raised e b → exec .rti s = raisedBy s e b)

/-- NOP: PC + 1 and 2 cycles, nothing else; no other instruction does nothing, and no undefined byte (R224). -/
def Obligations.NopDoesNothing : Prop :=
  rowsOf .nop = [(0xEA, .implied, 1, 2)] ∧
  CompletesWith .nop (fun s t => t = s) ∧
  (∀ i : Instr, CompletesWith i (fun s t => t = s) → i = .nop) ∧
  undefinedOpcodes.length = 105 ∧ (∀ op ∈ undefinedOpcodes, findByte op = none) ∧
  ∀ (s : State) (op : Byte) (b : Bus), s.mode = .running → s.bus.read s.pc = .ok op b → op ∈ undefinedOpcodes →
    ∃ left, step s = .fault (.decodeError op s.pc left)

/-- Zero-page addressing never leaves page zero (R61). -/
def Obligations.ZeroPageIndexWraps : Prop :=
  (∀ (z : Byte) (s : State) (b : Bus),
    (∃ ea, resolve (.zeroPage z) s b = .ok ⟨.address ea, false, 1⟩ b ∧ ea.toNat = z.toNat) ∧
    (∃ ea, resolve (.zeroPageX z) s b = .ok ⟨.address ea, false, 1⟩ b ∧ ea.toNat = (z.toNat + s.x.toNat) % 256) ∧
    (∃ ea, resolve (.zeroPageY z) s b = .ok ⟨.address ea, false, 1⟩ b ∧ ea.toNat = (z.toNat + s.y.toNat) % 256)) ∧
  (∀ (z : Byte) (s : State) (b : Bus) (p q : Word), p.toNat = (z.toNat + s.x.toNat) % 256 →
    q.toNat = (p.toNat + 1) % 256 →
    resolve (.indirectX z) s b = (b.readPair p q).andThen fun t c => .ok ⟨.address t, false, 1⟩ c) ∧
  (∀ (z : Byte) (s : State) (b : Bus) (p q : Word), p.toNat = z.toNat → q.toNat = (p.toNat + 1) % 256 →
    resolve (.indirectY z) s b = (b.readPair p q).andThen fun t c => .ok (indexed t s.y 1) c)

/-- AbsoluteX, AbsoluteY and IndirectY: the sum modulo 65536, and a page cross iff the high bytes differ (R90, R92).
-/
def Obligations.IndexedAddressesWrapAndCross : Prop :=
  (∀ (w : Word) (s : State) (b : Bus),
    (∃ ea, resolve (.absoluteX w) s b = .ok ⟨.address ea, decide (w.toNat / 256 ≠ ea.toNat / 256), 2⟩ b ∧
      ea.toNat = (w.toNat + s.x.toNat) % 65536) ∧
    (∃ ea, resolve (.absoluteY w) s b = .ok ⟨.address ea, decide (w.toNat / 256 ≠ ea.toNat / 256), 2⟩ b ∧
      ea.toNat = (w.toNat + s.y.toNat) % 65536)) ∧
  (∀ (z : Byte) (s : State) (b c : Bus) (w : Word), b.readPair (zext z) (zext (z + 1)) = .ok w c →
    ∃ ea, resolve (.indirectY z) s b = .ok ⟨.address ea, decide (w.toNat / 256 ≠ ea.toNat / 256), 1⟩ c ∧
      ea.toNat = (w.toNat + s.y.toNat) % 65536)

/-- Push writes at 0x0100 + SP then decrements SP; pull increments SP then reads; modulo 256 (decision D8 of the
spec) (R62). -/
def Obligations.StackWrapsInItsPage : Prop :=
  ∀ s : State, s.params = Params.hardware →
    s.stackAddr.toNat = 0x0100 + s.sp.toNat ∧
    (∀ (v : Byte) (b b1 : Bus), b.write s.stackAddr v = .ok () b1 →
      ∃ n : Byte, n.toNat = (s.sp.toNat + 255) % 256 ∧ push v s b = .ok { s with sp := n } b1) ∧
    (∀ (v : Byte) (b b1 : Bus) (n : Byte), n.toNat = (s.sp.toNat + 1) % 256 →
      b.read (State.stackAddr { s with sp := n }) = .ok v b1 → pull s b = .ok (v, { s with sp := n }) b1)

/-- No instruction writes a flag that its row of the flag-write table leaves unchanged (decision D10, D11 of the
spec) (R33). That PLP, RTI and BRK leave bits 4 and 5 alone is the spec's decision D10, D11 (log entry 11). -/
def Obligations.FlagsWrittenOnlyAsTabled : Prop :=
  ∀ (i : Instr) (s t : State) (f : Flag), exec i s = .next t → writesFlag i.operation f = false → t.flag f = s.flag f

/-- Bits 4 and 5 of P change only by power-on (to 0) and forceStatus (decision D9, D10, D11 of the spec) (R30). That
forceStatus acts in every lifecycle state is the model's choice (log entry 7). -/
def Obligations.PlaceholderBitsAreTheHosts : Prop :=
  (∀ (c : HostCall) (s : State), c ≠ .power → (∀ v, c ≠ .forceStatus v) →
    (hostCall c s).2.flag .b = s.flag .b ∧ (hostCall c s).2.flag .u = s.flag .u) ∧
  (∀ s t : State, power s = .next t → t.flag .b = false ∧ t.flag .u = false) ∧
  (∀ (s : State) (v : Byte), (hostCall (.forceStatus v) s).2.flag .b = testFlag v .b ∧
    (hostCall (.forceStatus v) s).2.flag .u = testFlag v .u) ∧
  (∀ s t : State, exec .php s = .next t → t.bus.log = .write s.stackAddr (pushedStatus s.p) :: s.bus.log) ∧
  (∀ s t : State, exec .brk s = .next t → ∃ l h : Byte,
    t.bus.log =
      [.read (s.params.brkVector + 1) h, .read s.params.brkVector l, .write (stackSlot s (s.sp - 2)) (pushedStatus s.p),
        .write (stackSlot s (s.sp - 1)) (lo (s.pc + 2)), .write (stackSlot s s.sp) (hi (s.pc + 2))] ++ s.bus.log) ∧
  (∀ p : Byte, HasFlags (pushedStatus p) fun f =>
    match f with
    | .b => true
    | .u => true
    | g => testFlag p g)

/-- Every non-control-flow instruction advances PC by exactly its length, modulo 65536 (R24, R112). -/
def Obligations.PcAdvancesByLength : Prop :=
  ∀ (i : Instr) (s t : State), exec i s = .next t → controlFlow i.operation = false →
    t.pc.toNat = (s.pc.toNat + i.length) % 65536 ∧ i.length = i.operand.bytes.length + 1

/-- Every completing instruction charges its base cycles and exactly the penalty of R113 (decision D18, D19 of the
spec) (R113). -/
def Obligations.CyclesChargeBaseAndPenalty : Prop :=
  ∀ (i : Instr) (s t : State), exec i s = .next t →
    ∃ r b, resolve i.operand s s.bus = .ok r b ∧
      t.cycles = s.cycles + i.base + stepPenalty i.operation s r.pageCrossed

/-- The bus accesses of a step are the opcode, operand, pointer, data, stack and vector accesses, in that order, and
no other (decision D5, D6 of the spec) (R54, R55). -/
def Obligations.AccessesAreTheLogicalSequence : Prop :=
  (∀ (s : State) (i : Instr) (b : Bus), fetch s = .ok (.instr i) b →
    s.bus.readAll s.pc i.length = .ok (encode i) b ∧
      ∃ new, b.log = new ++ s.bus.log ∧ new.reverse.map accessAt = fetchAccesses s.pc i.length) ∧
  (∀ (i : Instr) (s t : State), exec i s = .next t →
    ∃ r b new, resolve i.operand s s.bus = .ok r b ∧ t.bus.log = new ++ s.bus.log ∧
      new.reverse.map accessAt = pointerAccesses s i.operand ++ dataAccesses s i.operation r.operand) ∧
  (∀ s t : State, step s = .next t →
    ∃ i b r c new, fetch s = .ok (.instr i) b ∧ resolve i.operand s b = .ok r c ∧ t.bus.log = new ++ s.bus.log ∧
      new.reverse.map accessAt =
        fetchAccesses s.pc i.length ++ pointerAccesses s i.operand ++ dataAccesses s i.operation r.operand)

/-- Every step keeps the memory in canonical form, completing or raising (R50, R115). The canonical form is the
model's own (log entry 1). -/
def Obligations.StepKeepsMemoryCanonical : Prop :=
  ∀ s : State, s.Inv →
    (∀ t, step s = .next t → t.Inv) ∧
    (∀ op a left, step s = .fault (.decodeError op a left) → left.Inv) ∧
    (∀ e left, step s = .fault (.busError e left) → left.Inv)

/-- The state after power-on has its memory in canonical form and is Running (R261). The PC, 0x0000, comes from the
fixture's vector bytes, the model's choice (log entry 2), and the canonical form is the model's own (log entry 1).
-/
def Obligations.ResetMeetsTheInvariant : Prop :=
  State.reset.Inv ∧ State.reset.mode = .running ∧ State.reset.a = 0x00 ∧ State.reset.x = 0x00 ∧
    State.reset.y = 0x00 ∧ State.reset.sp = 0x00 ∧ State.reset.p = 0x04 ∧ State.reset.cycles = 0 ∧ State.reset.pc = 0x0000

/-- Any list of host calls keeps the memory canonical, the map and the parameters (log entries 1, 4, 8), and only
extends the history (R53, R54). That the map and the parameters stay, and that the memory has a canonical form, are
the model's choices (log entries 4, 8 and 1); the history is R54. -/
def Obligations.HostRunsKeepMapParamsHistory : Prop :=
  ∀ (cs : List HostCall) (s : State),
    (hostRun cs s).2.bus.windows = s.bus.windows ∧ (hostRun cs s).2.params = s.params ∧
      (∃ new, (hostRun cs s).2.bus.log = new ++ s.bus.log) ∧ (s.Inv → (hostRun cs s).2.Inv)

/-- Decoding the encoding of any instruction gives it back, and leaves the bytes that follow (R80, R83, R99). -/
def Obligations.DecodeInvertsEncode : Prop :=
  ∀ (i : Instr) (rest : List Byte), i.WellFormed ∧ decode (encode i ++ rest) = .ok (i, rest)

/-- Whatever decodes to an instruction is its encoding and nothing else (R80, R101). -/
def Obligations.EncodeInvertsDecode : Prop :=
  ∀ (bytes : List Byte) (i : Instr) (rest : List Byte), decode bytes = .ok (i, rest) → bytes = encode i ++ rest

/-- Exactly the 105 listed bytes have no table entry, and decoding rejects each by name (R100). -/
def Obligations.UndefinedOpcodesAreTheListed105 : Prop :=
  (∀ op : Byte, findByte op = none ↔ op ∈ undefinedOpcodes) ∧ undefinedOpcodes.length = 105 ∧
    undefinedOpcodes.Nodup ∧
    ∀ (op : Byte) (rest : List Byte), op ∈ undefinedOpcodes → decode (op :: rest) = .error (.undefinedOpcode op)

/-- An undefined opcode raises a DecodeError with its byte and address, and nothing is committed (decision D13, D21
of the spec) (R231). -/
def Obligations.UndefinedOpcodeRaisesDecodeError : Prop :=
  ∀ (s : State) (op : Byte) (b : Bus), s.mode = .running → s.bus.read s.pc = .ok op b → op ∈ undefinedOpcodes →
    step s = .fault (.decodeError op s.pc { s with bus := b, mode := .faulted (.decodeError op s.pc) })

/-- A few words of the opcode map decode to the instruction they stand for (R81, R99). -/
def Obligations.SampleWordsDecode : Prop :=
  decode [0x79, 0x34, 0x12] = .ok (.adcAbsY 0x1234, []) ∧ decode [0x49, 0xFF] = .ok (.eorImm 0xFF, []) ∧
    decode [0x6A] = .ok (.rorA, []) ∧ decode [0xB6, 0x10] = .ok (.ldxZpY 0x10, []) ∧
    decode [0x08] = .ok (.php, []) ∧ decode [0xF8] = .ok (.sed, []) ∧ decode [0xD0, 0xF8] = .ok (.bne 0xF8, []) ∧
    decode [0x6C, 0xFF, 0x12] = .ok (.jmpInd 0x12FF, []) ∧ decode [0x20, 0x00, 0x90] = .ok (.jsr 0x9000, []) ∧
    decode [0x91, 0x40] = .ok (.staIndY 0x40, [])

/-- A step fetches the bytes at PC and is exec of the instruction they decode to (R110, R111). -/
def Obligations.StepRunsTheDecodedInstruction : Prop :=
  (∀ (s : State) (n : Nat) (bytes : List Byte) (b : Bus) (i : Instr), s.mode = .running →
    s.bus.readAll s.pc n = .ok bytes b → decode bytes = .ok (i, []) →
    (∀ op ∈ bytes.head?, s.params.excludedOpcodes.contains op = false) →
    step s = exec i { s with bus := b }) ∧
  (∀ (b : Bus) (a : Word) (bytes : List Byte),
    (∀ k : Nat, k < bytes.length → b.readRule (a + BitVec.ofNat 16 k) = .cells ∧
      bytes[k]? = some (b.stored (a + BitVec.ofNat 16 k))) →
    ∃ c, b.readAll a bytes.length = .ok bytes c ∧ c.cells = b.cells ∧ c.windows = b.windows)

/-- Before power-on, step() and every read accessor are refused, with no effect (decision D15 of the spec) (R234).
-/
def Obligations.StepRefusedWithoutPower : Prop :=
  ∀ (s : State) (c : HostCall), s.mode = .unpowered →
    c ∈ [HostCall.step, .readA, .readX, .readY, .readStatus, .readPc, .readCycles] →
    hostCall c s = (.refused .notPowered, s) ∧ step s = .refused .notPowered

/-- After a fatal error step() is refused, the accessors answer, and only power() clears the fault (decision D13,
D23 of the spec) (R235). -/
def Obligations.FaultIsKeptUntilPower : Prop :=
  (∀ (s : State) (r : FaultReason), s.mode = .faulted r →
    hostCall .step s = (.refused .notPowered, s) ∧
    hostCall .readA s = (.byte s.a, s) ∧ hostCall .readX s = (.byte s.x, s) ∧ hostCall .readY s = (.byte s.y, s) ∧
    hostCall .readStatus s = (.byte s.p, s) ∧ hostCall .readPc s = (.word s.pc, s) ∧
    hostCall .readCycles s = (.count s.cycles, s) ∧
    (∀ cs : List HostCall, HostCall.power ∉ cs → (hostRun cs s).2.mode = .faulted r) ∧
    (∀ t u : State, t.bus = s.bus → t.params = s.params → power s = .next u → power t = .next u)) ∧
  ∀ (s : State) (r : FaultReason), (hostCall .step s).1 = .raised r → (hostCall .step s).2.mode = .faulted r

/-- What a core holds in its registers before power-on can never be observed (decision D15 of the spec) (R37, R234,
R260). That every read of an Unpowered core is refused is the spec's decision D15; the bytes it holds are the
model's own (log entry 6). -/
def Obligations.UnpoweredRegistersHoldNoValue : Prop :=
  ∀ (cs : List HostCall) (s t : State), s.mode = .unpowered → t.mode = .unpowered → s.bus = t.bus →
    s.params = t.params →
    (hostRun cs s).1 = (hostRun cs t).1 ∧
      ((hostRun cs s).2.mode ≠ .unpowered → (hostRun cs s).2 = (hostRun cs t).2)

/-- power() zeroes the registers, sets I, loads PC from the reset vector, from any lifecycle state (decision D3,
D14, D16 of the spec) (R260, R261, R262). That a raising power() leaves the old bytes of the registers, PC and
cycles, unseen, is the model's choice (log entry 6). -/
def Obligations.PowerOnResetsEverything : Prop :=
  Params.hardware.resetVector = 0xFFFC ∧ Params.hardware.powerOnCycles = 0 ∧
  (∀ (s : State) (l h : Byte) (b1 b2 : Bus), s.bus.read s.params.resetVector = .ok l b1 →
    b1.read (s.params.resetVector + 1) = .ok h b2 →
    power s = .next { a := 0x00, x := 0x00, y := 0x00, sp := 0x00, p := 0x04, pc := concat h l,
                      cycles := s.params.powerOnCycles, mode := .running, bus := b2, params := s.params } ∧
      ∀ a, b2.stored a = s.bus.stored a) ∧
  (∀ (s : State) (e : Nat) (b : Bus), s.bus.readWord s.params.resetVector = .raised e b →
    power s = .fault (.busError e { s with bus := b, mode := .unpowered }))

/-- State.reset is what power() answers on the RAM fixture (decision D22 of the spec) (R68, R260, R261). The fixture
bus of State.reset and its unlisted bytes 0x00 are the model's choice (log entries 1 and 2). -/
def Obligations.ResetIsPowerOnOfTheFixture : Prop :=
  power (State.unpowered Bus.ram Params.hardware) = .next State.reset

/-- setA, setX, setY and forceStatus write their register and nothing else (decision D17 of the spec) (R272, R273).
That they act in every lifecycle state, Unpowered and Faulted too, is the model's choice (log entry 7). -/
def Obligations.SettersTouchOneRegister : Prop :=
  ∀ (s : State) (v : Byte),
    hostCall (.setA v) s = (.done, { s with a := v }) ∧ hostCall (.setX v) s = (.done, { s with x := v }) ∧
    hostCall (.setY v) s = (.done, { s with y := v }) ∧ hostCall (.forceStatus v) s = (.done, { s with p := v })

/-- The read accessors report A, X, Y, P, PC and cycles and change nothing; refused before power-on (R271). -/
def Obligations.AccessorsReportTheState : Prop :=
  (∀ s : State, s.mode ≠ .unpowered →
    hostCall .readA s = (.byte s.a, s) ∧ hostCall .readX s = (.byte s.x, s) ∧ hostCall .readY s = (.byte s.y, s) ∧
    hostCall .readStatus s = (.byte s.p, s) ∧ hostCall .readPc s = (.word s.pc, s) ∧
    hostCall .readCycles s = (.count s.cycles, s)) ∧
  (∀ (s : State) (c : HostCall), s.mode = .unpowered →
    c ∈ [HostCall.readA, .readX, .readY, .readStatus, .readPc, .readCycles] →
    hostCall c s = (.refused .notPowered, s))

/-- No host call but power() and step() changes PC, SP, cycles, lifecycle or the bus (R270, R274). -/
def Obligations.OnlyPowerAndStepMovePcAndSp : Prop :=
  ∀ (c : HostCall) (s : State), c ≠ .power → c ≠ .step →
    (hostCall c s).2 = { s with a := (hostCall c s).2.a, x := (hostCall c s).2.x, y := (hostCall c s).2.y,
                                p := (hostCall c s).2.p } ∧
    ((∀ v, c ≠ .setA v ∧ c ≠ .setX v ∧ c ≠ .setY v ∧ c ≠ .forceStatus v) → (hostCall c s).2 = s)

/-- A step that raises leaves registers, flags, PC and cycles as they were; accesses made stand (decision D14 of the
spec) (R236). -/
def Obligations.RaisedStepCommitsNothing : Prop :=
  ∀ (s : State) (f : Fault), step s = .fault f →
    ∃ b : Bus, (∃ new, b.log = new ++ s.bus.log) ∧ b.windows = s.bus.windows ∧
      ((∃ op, f = .decodeError op s.pc { s with bus := b, mode := .faulted (.decodeError op s.pc) }) ∨
        ∃ e, f = .busError e { s with bus := b, mode := .faulted (.busError e) })

/-- One error a step, the first in access order: NotPowered, the opcode fetch, DecodeError, a later access (decision
D1, D13, D14 of the spec) (R237). The opcodes out of OPCODE_SET are the list of log entry 8. -/
def Obligations.ErrorsInAccessOrder : Prop :=
  ∀ s : State,
    (s.mode ≠ .running → step s = .refused .notPowered) ∧
    (∀ e b, s.mode = .running → s.bus.read s.pc = .raised e b → step s = raisedBy s e b) ∧
    (∀ op a left, step s = .fault (.decodeError op a left) →
      a = s.pc ∧ ∃ b, s.bus.read s.pc = .ok op b ∧ left.bus = b ∧
        (op ∈ undefinedOpcodes ∨ s.params.excludedOpcodes.contains op = true)) ∧
    (∀ op b, s.mode = .running → s.bus.read s.pc = .ok op b → s.params.excludedOpcodes.contains op = true →
      step s = .fault (.decodeError op s.pc { s with bus := b, mode := .faulted (.decodeError op s.pc) })) ∧
    (∀ op b, s.mode = .running → s.bus.read s.pc = .ok op b → op ∈ undefinedOpcodes →
      step s = .fault (.decodeError op s.pc { s with bus := b, mode := .faulted (.decodeError op s.pc) })) ∧
    (∀ e left, step s = .fault (.busError e left) → ∃ x new, left.bus.log = x :: (new ++ s.bus.log) ∧
      accessError x = some e ∧ ∀ y ∈ new, accessError y = none) ∧
    (∀ t, step s = .next t → ∃ new, t.bus.log = new ++ s.bus.log ∧ ∀ y ∈ new, accessError y = none)

/-- No instruction is ever refused, and a Running core refuses no step (R242). -/
def Obligations.RunningStepIsNeverRefused : Prop :=
  (∀ (i : Instr) (s : State) (r : Refusal), exec i s ≠ .refused r) ∧
    (∀ (s : State) (r : Refusal), step s = .refused r → s.mode ≠ .running ∧ r = .notPowered)

/-- On a bus that raises no error, every instruction completes, charging at least its base cycles (R115, R242). -/
def Obligations.EveryInstructionCompletes : Prop :=
  ∀ (i : Instr) (s : State), s.bus.NeverRaises →
    ∃ t, exec i s = .next t ∧ s.cycles + i.base ≤ t.cycles ∧ 2 ≤ i.base ∧ t.mode = s.mode ∧ t.params = s.params ∧
      t.bus.NeverRaises

/-- SP changes only by TXS, PHA, PHP, PLA, PLP, JSR, RTS, BRK and RTI (decision D8 of the spec) (R23). -/
def Obligations.SpWrittenOnlyByStackOperations : Prop :=
  ∀ (i : Instr) (s t : State), exec i s = .next t → writesSp i.operation = false → t.sp = s.sp

/-- find(operation, mode) answers exactly the defined pairs; any other is a ConfigurationError (R102, R232). -/
def Obligations.PairsOfTheTable : Prop :=
  (∀ (op : Operation) (m : AddressMode), m ∈ op.modes ↔ ∃ r, findPair op m = some r ∧ r.operation = op ∧ r.mode = m) ∧
  (∀ (op : Operation) (m : AddressMode) (bytes : List Byte), m ∉ op.modes →
    findPair op m = none ∧ construct ⟨op, m, bytes⟩ = .error (.configurationError op m)) ∧
  ∀ (s : State) (op : Operation) (m : AddressMode), step s ≠ .refused (.configurationError op m)

/-- JSR and then RTS returns to the JSR address + 3, with SP restored (decision D5, D8 of the spec) (R220, R221).
The memory behind the bus is the model's choice (log entries 1 and 4): the spec's bus need not return the last byte
written (R53). -/
def Obligations.JsrThenRtsReturns : Prop :=
  ∀ (w : Word) (s : State), s.Inv → (∀ n : Byte, s.bus.IsRam (concat s.params.stackPage n)) →
    ∃ t u, exec (.jsr w) s = .next t ∧ t.pc = w ∧ exec .rts t = .next u ∧ u.pc = s.pc + 3 ∧ u.sp = s.sp ∧
      u.a = s.a ∧ u.x = s.x ∧ u.y = s.y ∧ u.p = s.p

/-- PHA then PLA restores A and SP; PHP then PLP restores P and SP (decision D8, D9, D10 of the spec) (R190, R191,
R192, R193). The memory behind the bus is the model's choice (log entries 1 and 4): the spec's bus need not return
the last byte written (R53). -/
def Obligations.PushThenPullRestores : Prop :=
  ∀ s : State, s.Inv → (∀ n : Byte, s.bus.IsRam (concat s.params.stackPage n)) →
    (∃ t u, exec .pha s = .next t ∧ exec .pla t = .next u ∧ u.a = s.a ∧ u.sp = s.sp) ∧
    (∃ t u, exec .php s = .next t ∧ exec .plp t = .next u ∧ u.p = s.p ∧ u.sp = s.sp)

/-- RTI after BRK returns to the BRK address + 2 with P and SP as before (decision D4, D8, D10, D11 of the spec)
(R222, R223, R239). The memory behind the bus is the model's choice (log entries 1 and 4): the spec's bus need not
return the last byte written (R53). -/
def Obligations.BrkThenRtiReturns : Prop :=
  ∀ s : State, s.bus.NeverRaises → s.Inv → (∀ n : Byte, s.bus.IsRam (concat s.params.stackPage n)) →
    ∃ t u, exec .brk s = .next t ∧ t.flag .i = true ∧ exec .rti t = .next u ∧ u.pc = s.pc + 2 ∧ u.p = s.p ∧
      u.sp = s.sp ∧ u.a = s.a ∧ u.x = s.x ∧ u.y = s.y

/-- SBC #M is ADC #(M xor 0xFF); CMP sets C and Z as SBC with C = 1 would (R132, R133, R134). -/
def Obligations.SbcIsAdcOfComplement : Prop :=
  ∀ (m : Byte) (s : State),
    (∃ t u, exec (.sbcImm m) s = .next t ∧ exec (.adcImm (m ^^^ 0xFF)) s = .next u ∧ t.a = u.a ∧ t.p = u.p) ∧
    (∃ t u, exec (.cmpImm m) s = .next t ∧ exec (.sbcImm m) { s with p := setFlag s.p .c } = .next u ∧
      t.flag .c = u.flag .c ∧ t.flag .z = u.flag .z ∧ t.flag .n = u.flag .n ∧ t.a = s.a ∧ t.flag .v = s.flag .v)

/-- ASL then ROR with the carry produced restores A; LSR leaves N clear; ROR with C set sets N (R161, R162, R164).
-/
def Obligations.AslThenRorRestoresA : Prop :=
  ∀ s : State,
    (∃ t u, exec .aslA s = .next t ∧ exec .rorA t = .next u ∧ u.a = s.a) ∧
    (∃ t, exec .lsrA s = .next t ∧ t.flag .n = false) ∧
    (∃ t, exec .rorA s = .next t ∧ t.flag .n = s.flag .c)

/-- The assembler encodes a label iff it lies in -128..127 of the next instruction, and the branch goes there (R94,
R98). That the distance of a label is taken modulo 65536 is the model's own reading (DEDUCED, log entry 13), no rule
of the spec: R98 states no modulo. -/
def Obligations.BranchLabelsEncode : Prop :=
  ∀ addr target : Word,
    (∀ off, branchOffset addr target = some off → branchTarget addr off = target) ∧
    ((branchOffset addr target).isSome = true ↔ -128 ≤ (target - (addr + 2)).toInt ∧ (target - (addr + 2)).toInt ≤ 127)

/-- Where the map says memory, a read answers the byte last written, and every other address reads as before
(decision D22 of the spec) (R66, R68). The memory behind the bus is the model's choice (log entries 1 and 4): the
spec's bus need not return the last byte written (R53). -/
def Obligations.MemoryReadsBackWhatWasWritten : Prop :=
  ∀ (b : Bus) (a : Word) (v : Byte), Memory.wf b.cells = true → b.IsRam a →
    ∃ b1, b.write a v = .ok () b1 ∧ Memory.wf b1.cells = true ∧ (∃ c, b1.read a = .ok v c) ∧
      ∀ k w d, k ≠ a → b.IsRam k → b.read k = .ok w d → ∃ c, b1.read k = .ok w c
end

