-- ==== Sys2Proof/Laws/Memory.lean ====
section
/-! SUPPORT. The laws of the memory: a read after a write, and the canonical form under every operation. -/

namespace Sys2Proof.Machine

/-- In a canonical memory, an address below the first one listed is not listed. -/
theorem cellAt_below {least a : Nat} (cells : List Host.Cell) (h : cellsFrom least cells = true) (ha : a < least) :
    cellAt cells a = unlistedByte := by
  induction cells generalizing least with
  | nil => rfl
  | cons kw rest ih =>
    obtain ⟨k, w⟩ := kw
    simp only [cellsFrom, Bool.and_eq_true, decide_eq_true_eq] at h
    simp only [cellAt]
    rw [if_neg (by omega)]
    exact ih h.2 (by omega)

/-- A larger lower bound is a stronger canonical form. -/
theorem cellsFrom_weaken {least least' : Nat} (cells : List Host.Cell) (h : cellsFrom least cells = true)
    (hl : least' ≤ least) : cellsFrom least' cells = true := by
  cases cells with
  | nil => rfl
  | cons kw rest =>
    obtain ⟨k, w⟩ := kw
    simp only [cellsFrom, Bool.and_eq_true, decide_eq_true_eq] at h ⊢
    exact ⟨⟨⟨by omega, h.1.1.2⟩, h.1.2⟩, h.2⟩

/-- A write at or above the bound keeps the canonical form. -/
theorem cellsFrom_setCell {least a : Nat} (cells : List Host.Cell) (v : Byte) (h : cellsFrom least cells = true)
    (hl : least ≤ a) (ha : a < 65536) : cellsFrom least (setCell cells a v) = true := by
  induction cells generalizing least with
  | nil =>
    simp only [setCell]
    split
    · rfl
    · simp [cellsFrom, *]
  | cons kw rest ih =>
    obtain ⟨k, w⟩ := kw
    simp only [cellsFrom, Bool.and_eq_true, decide_eq_true_eq] at h
    simp only [setCell]
    split
    · split
      · simp [cellsFrom, h.1.1.1, h.1.1.2, h.2]; simpa using h.1.2
      · simp only [cellsFrom, Bool.and_eq_true, decide_eq_true_eq, bne_iff_ne]
        exact ⟨⟨⟨hl, ha⟩, by assumption⟩, ⟨⟨by omega, h.1.1.2⟩, by simpa using h.1.2⟩, h.2⟩
    · split
      · split
        · exact cellsFrom_weaken rest h.2 (by omega)
        · subst_vars
          simp only [cellsFrom, Bool.and_eq_true, decide_eq_true_eq, bne_iff_ne]
          exact ⟨⟨⟨hl, ha⟩, by assumption⟩, h.2⟩
      · simp only [cellsFrom, Bool.and_eq_true, decide_eq_true_eq]
        exact ⟨h.1, ih h.2 (by omega)⟩

/-- Every write keeps the memory in canonical form. -/
theorem Memory.wf_setCell {a : Nat} (cells : List Host.Cell) (v : Byte) (h : Memory.wf cells = true)
    (ha : a < 65536) : Memory.wf (setCell cells a v) = true :=
  cellsFrom_setCell cells v h (Nat.zero_le a) ha

/-- The address written reads as the byte written. The canonical form matters when that byte is `unlistedByte`. -/
theorem cellAt_setCell_same {least a : Nat} (cells : List Host.Cell) (v : Byte) (h : cellsFrom least cells = true) :
    cellAt (setCell cells a v) a = v := by
  induction cells generalizing least with
  | nil =>
    simp only [setCell]
    split
    · subst_vars; rfl
    · simp [cellAt]
  | cons kw rest ih =>
    obtain ⟨k, w⟩ := kw
    simp only [cellsFrom, Bool.and_eq_true, decide_eq_true_eq] at h
    simp only [setCell]
    split
    · split
      · subst_vars
        simp only [cellAt]
        rw [if_neg (by omega)]
        exact cellAt_below rest h.2 (by omega)
      · simp [cellAt]
    · split
      · split
        · subst_vars
          exact cellAt_below rest h.2 (by omega)
        · simp [cellAt]
      · simp only [cellAt]
        rw [if_neg (by omega)]
        exact ih h.2

/-- Every other address reads as before, in any memory. -/
theorem cellAt_setCell_other {a k : Nat} (cells : List Host.Cell) (v : Byte) (hk : k ≠ a) :
    cellAt (setCell cells a v) k = cellAt cells k := by
  induction cells with
  | nil =>
    simp only [setCell]
    split
    · rfl
    · simp [cellAt, hk.symm]
  | cons kw rest ih =>
    obtain ⟨j, w⟩ := kw
    simp only [setCell]
    split
    · split
      · rfl
      · simp [cellAt, hk.symm]
    · split
      · subst_vars
        split
        · simp [cellAt, hk.symm]
        · simp [cellAt, hk.symm]
      · simp [cellAt, ih]

end Sys2Proof.Machine
end

