-- ==== Sys2Proof/Laws/State.lean ====
section
/-! SUPPORT. One lemma per field per named update of the state, each true by rfl. -/

namespace Sys2Proof.Machine

@[simp] theorem State.setA_a (s : State) (v : Byte) : (s.setA v).a = v := rfl
@[simp] theorem State.setA_x (s : State) (v : Byte) : (s.setA v).x = s.x := rfl
@[simp] theorem State.setA_y (s : State) (v : Byte) : (s.setA v).y = s.y := rfl
@[simp] theorem State.setA_sp (s : State) (v : Byte) : (s.setA v).sp = s.sp := rfl
@[simp] theorem State.setA_p (s : State) (v : Byte) : (s.setA v).p = s.p := rfl
@[simp] theorem State.setA_pc (s : State) (v : Byte) : (s.setA v).pc = s.pc := rfl
@[simp] theorem State.setA_cycles (s : State) (v : Byte) : (s.setA v).cycles = s.cycles := rfl
@[simp] theorem State.setA_mode (s : State) (v : Byte) : (s.setA v).mode = s.mode := rfl
@[simp] theorem State.setA_bus (s : State) (v : Byte) : (s.setA v).bus = s.bus := rfl
@[simp] theorem State.setA_params (s : State) (v : Byte) : (s.setA v).params = s.params := rfl

@[simp] theorem State.setX_a (s : State) (v : Byte) : (s.setX v).a = s.a := rfl
@[simp] theorem State.setX_x (s : State) (v : Byte) : (s.setX v).x = v := rfl
@[simp] theorem State.setX_y (s : State) (v : Byte) : (s.setX v).y = s.y := rfl
@[simp] theorem State.setX_sp (s : State) (v : Byte) : (s.setX v).sp = s.sp := rfl
@[simp] theorem State.setX_p (s : State) (v : Byte) : (s.setX v).p = s.p := rfl
@[simp] theorem State.setX_pc (s : State) (v : Byte) : (s.setX v).pc = s.pc := rfl
@[simp] theorem State.setX_cycles (s : State) (v : Byte) : (s.setX v).cycles = s.cycles := rfl
@[simp] theorem State.setX_mode (s : State) (v : Byte) : (s.setX v).mode = s.mode := rfl
@[simp] theorem State.setX_bus (s : State) (v : Byte) : (s.setX v).bus = s.bus := rfl
@[simp] theorem State.setX_params (s : State) (v : Byte) : (s.setX v).params = s.params := rfl

@[simp] theorem State.setY_a (s : State) (v : Byte) : (s.setY v).a = s.a := rfl
@[simp] theorem State.setY_x (s : State) (v : Byte) : (s.setY v).x = s.x := rfl
@[simp] theorem State.setY_y (s : State) (v : Byte) : (s.setY v).y = v := rfl
@[simp] theorem State.setY_sp (s : State) (v : Byte) : (s.setY v).sp = s.sp := rfl
@[simp] theorem State.setY_p (s : State) (v : Byte) : (s.setY v).p = s.p := rfl
@[simp] theorem State.setY_pc (s : State) (v : Byte) : (s.setY v).pc = s.pc := rfl
@[simp] theorem State.setY_cycles (s : State) (v : Byte) : (s.setY v).cycles = s.cycles := rfl
@[simp] theorem State.setY_mode (s : State) (v : Byte) : (s.setY v).mode = s.mode := rfl
@[simp] theorem State.setY_bus (s : State) (v : Byte) : (s.setY v).bus = s.bus := rfl
@[simp] theorem State.setY_params (s : State) (v : Byte) : (s.setY v).params = s.params := rfl

@[simp] theorem State.setSp_a (s : State) (v : Byte) : (s.setSp v).a = s.a := rfl
@[simp] theorem State.setSp_x (s : State) (v : Byte) : (s.setSp v).x = s.x := rfl
@[simp] theorem State.setSp_y (s : State) (v : Byte) : (s.setSp v).y = s.y := rfl
@[simp] theorem State.setSp_sp (s : State) (v : Byte) : (s.setSp v).sp = v := rfl
@[simp] theorem State.setSp_p (s : State) (v : Byte) : (s.setSp v).p = s.p := rfl
@[simp] theorem State.setSp_pc (s : State) (v : Byte) : (s.setSp v).pc = s.pc := rfl
@[simp] theorem State.setSp_cycles (s : State) (v : Byte) : (s.setSp v).cycles = s.cycles := rfl
@[simp] theorem State.setSp_mode (s : State) (v : Byte) : (s.setSp v).mode = s.mode := rfl
@[simp] theorem State.setSp_bus (s : State) (v : Byte) : (s.setSp v).bus = s.bus := rfl
@[simp] theorem State.setSp_params (s : State) (v : Byte) : (s.setSp v).params = s.params := rfl

@[simp] theorem State.setP_a (s : State) (v : Byte) : (s.setP v).a = s.a := rfl
@[simp] theorem State.setP_x (s : State) (v : Byte) : (s.setP v).x = s.x := rfl
@[simp] theorem State.setP_y (s : State) (v : Byte) : (s.setP v).y = s.y := rfl
@[simp] theorem State.setP_sp (s : State) (v : Byte) : (s.setP v).sp = s.sp := rfl
@[simp] theorem State.setP_p (s : State) (v : Byte) : (s.setP v).p = v := rfl
@[simp] theorem State.setP_pc (s : State) (v : Byte) : (s.setP v).pc = s.pc := rfl
@[simp] theorem State.setP_cycles (s : State) (v : Byte) : (s.setP v).cycles = s.cycles := rfl
@[simp] theorem State.setP_mode (s : State) (v : Byte) : (s.setP v).mode = s.mode := rfl
@[simp] theorem State.setP_bus (s : State) (v : Byte) : (s.setP v).bus = s.bus := rfl
@[simp] theorem State.setP_params (s : State) (v : Byte) : (s.setP v).params = s.params := rfl

@[simp] theorem State.setBus_a (s : State) (v : Bus) : (s.setBus v).a = s.a := rfl
@[simp] theorem State.setBus_x (s : State) (v : Bus) : (s.setBus v).x = s.x := rfl
@[simp] theorem State.setBus_y (s : State) (v : Bus) : (s.setBus v).y = s.y := rfl
@[simp] theorem State.setBus_sp (s : State) (v : Bus) : (s.setBus v).sp = s.sp := rfl
@[simp] theorem State.setBus_p (s : State) (v : Bus) : (s.setBus v).p = s.p := rfl
@[simp] theorem State.setBus_pc (s : State) (v : Bus) : (s.setBus v).pc = s.pc := rfl
@[simp] theorem State.setBus_cycles (s : State) (v : Bus) : (s.setBus v).cycles = s.cycles := rfl
@[simp] theorem State.setBus_mode (s : State) (v : Bus) : (s.setBus v).mode = s.mode := rfl
@[simp] theorem State.setBus_bus (s : State) (v : Bus) : (s.setBus v).bus = v := rfl
@[simp] theorem State.setBus_params (s : State) (v : Bus) : (s.setBus v).params = s.params := rfl

@[simp] theorem State.setMode_a (s : State) (v : Lifecycle) : (s.setMode v).a = s.a := rfl
@[simp] theorem State.setMode_x (s : State) (v : Lifecycle) : (s.setMode v).x = s.x := rfl
@[simp] theorem State.setMode_y (s : State) (v : Lifecycle) : (s.setMode v).y = s.y := rfl
@[simp] theorem State.setMode_sp (s : State) (v : Lifecycle) : (s.setMode v).sp = s.sp := rfl
@[simp] theorem State.setMode_p (s : State) (v : Lifecycle) : (s.setMode v).p = s.p := rfl
@[simp] theorem State.setMode_pc (s : State) (v : Lifecycle) : (s.setMode v).pc = s.pc := rfl
@[simp] theorem State.setMode_cycles (s : State) (v : Lifecycle) : (s.setMode v).cycles = s.cycles := rfl
@[simp] theorem State.setMode_mode (s : State) (v : Lifecycle) : (s.setMode v).mode = v := rfl
@[simp] theorem State.setMode_bus (s : State) (v : Lifecycle) : (s.setMode v).bus = s.bus := rfl
@[simp] theorem State.setMode_params (s : State) (v : Lifecycle) : (s.setMode v).params = s.params := rfl

@[simp] theorem State.loadA_a (s : State) (v : Byte) : (s.loadA v).a = v := rfl
@[simp] theorem State.loadA_x (s : State) (v : Byte) : (s.loadA v).x = s.x := rfl
@[simp] theorem State.loadA_y (s : State) (v : Byte) : (s.loadA v).y = s.y := rfl
@[simp] theorem State.loadA_sp (s : State) (v : Byte) : (s.loadA v).sp = s.sp := rfl
@[simp] theorem State.loadA_p (s : State) (v : Byte) : (s.loadA v).p = setZN s.p v := rfl
@[simp] theorem State.loadA_pc (s : State) (v : Byte) : (s.loadA v).pc = s.pc := rfl
@[simp] theorem State.loadA_cycles (s : State) (v : Byte) : (s.loadA v).cycles = s.cycles := rfl
@[simp] theorem State.loadA_mode (s : State) (v : Byte) : (s.loadA v).mode = s.mode := rfl
@[simp] theorem State.loadA_bus (s : State) (v : Byte) : (s.loadA v).bus = s.bus := rfl
@[simp] theorem State.loadA_params (s : State) (v : Byte) : (s.loadA v).params = s.params := rfl

@[simp] theorem State.loadX_a (s : State) (v : Byte) : (s.loadX v).a = s.a := rfl
@[simp] theorem State.loadX_x (s : State) (v : Byte) : (s.loadX v).x = v := rfl
@[simp] theorem State.loadX_y (s : State) (v : Byte) : (s.loadX v).y = s.y := rfl
@[simp] theorem State.loadX_sp (s : State) (v : Byte) : (s.loadX v).sp = s.sp := rfl
@[simp] theorem State.loadX_p (s : State) (v : Byte) : (s.loadX v).p = setZN s.p v := rfl
@[simp] theorem State.loadX_pc (s : State) (v : Byte) : (s.loadX v).pc = s.pc := rfl
@[simp] theorem State.loadX_cycles (s : State) (v : Byte) : (s.loadX v).cycles = s.cycles := rfl
@[simp] theorem State.loadX_mode (s : State) (v : Byte) : (s.loadX v).mode = s.mode := rfl
@[simp] theorem State.loadX_bus (s : State) (v : Byte) : (s.loadX v).bus = s.bus := rfl
@[simp] theorem State.loadX_params (s : State) (v : Byte) : (s.loadX v).params = s.params := rfl

@[simp] theorem State.loadY_a (s : State) (v : Byte) : (s.loadY v).a = s.a := rfl
@[simp] theorem State.loadY_x (s : State) (v : Byte) : (s.loadY v).x = s.x := rfl
@[simp] theorem State.loadY_y (s : State) (v : Byte) : (s.loadY v).y = v := rfl
@[simp] theorem State.loadY_sp (s : State) (v : Byte) : (s.loadY v).sp = s.sp := rfl
@[simp] theorem State.loadY_p (s : State) (v : Byte) : (s.loadY v).p = setZN s.p v := rfl
@[simp] theorem State.loadY_pc (s : State) (v : Byte) : (s.loadY v).pc = s.pc := rfl
@[simp] theorem State.loadY_cycles (s : State) (v : Byte) : (s.loadY v).cycles = s.cycles := rfl
@[simp] theorem State.loadY_mode (s : State) (v : Byte) : (s.loadY v).mode = s.mode := rfl
@[simp] theorem State.loadY_bus (s : State) (v : Byte) : (s.loadY v).bus = s.bus := rfl
@[simp] theorem State.loadY_params (s : State) (v : Byte) : (s.loadY v).params = s.params := rfl

@[simp] theorem commit_a (o : Operand) (base pen : Nat) (tgt : Option Word) (s t : State) :
    (commit o base pen tgt s t).a = t.a := rfl
@[simp] theorem commit_x (o : Operand) (base pen : Nat) (tgt : Option Word) (s t : State) :
    (commit o base pen tgt s t).x = t.x := rfl
@[simp] theorem commit_y (o : Operand) (base pen : Nat) (tgt : Option Word) (s t : State) :
    (commit o base pen tgt s t).y = t.y := rfl
@[simp] theorem commit_sp (o : Operand) (base pen : Nat) (tgt : Option Word) (s t : State) :
    (commit o base pen tgt s t).sp = t.sp := rfl
@[simp] theorem commit_p (o : Operand) (base pen : Nat) (tgt : Option Word) (s t : State) :
    (commit o base pen tgt s t).p = t.p := rfl
@[simp] theorem commit_pc (o : Operand) (base pen : Nat) (tgt : Option Word) (s t : State) :
    (commit o base pen tgt s t).pc = tgt.getD (s.pc + BitVec.ofNat 16 o.length) := rfl
@[simp] theorem commit_cycles (o : Operand) (base pen : Nat) (tgt : Option Word) (s t : State) :
    (commit o base pen tgt s t).cycles = s.cycles + base + pen := rfl
@[simp] theorem commit_mode (o : Operand) (base pen : Nat) (tgt : Option Word) (s t : State) :
    (commit o base pen tgt s t).mode = t.mode := rfl
@[simp] theorem commit_bus (o : Operand) (base pen : Nat) (tgt : Option Word) (s t : State) :
    (commit o base pen tgt s t).bus = t.bus := rfl
@[simp] theorem commit_params (o : Operand) (base pen : Nat) (tgt : Option Word) (s t : State) :
    (commit o base pen tgt s t).params = t.params := rfl

@[simp] theorem faultedState_a (r : FaultReason) (s : State) (b : Bus) : (faultedState r s b).a = s.a := rfl
@[simp] theorem faultedState_x (r : FaultReason) (s : State) (b : Bus) : (faultedState r s b).x = s.x := rfl
@[simp] theorem faultedState_y (r : FaultReason) (s : State) (b : Bus) : (faultedState r s b).y = s.y := rfl
@[simp] theorem faultedState_sp (r : FaultReason) (s : State) (b : Bus) : (faultedState r s b).sp = s.sp := rfl
@[simp] theorem faultedState_p (r : FaultReason) (s : State) (b : Bus) : (faultedState r s b).p = s.p := rfl
@[simp] theorem faultedState_pc (r : FaultReason) (s : State) (b : Bus) : (faultedState r s b).pc = s.pc := rfl
@[simp] theorem faultedState_cycles (r : FaultReason) (s : State) (b : Bus) : (faultedState r s b).cycles = s.cycles := rfl
@[simp] theorem faultedState_mode (r : FaultReason) (s : State) (b : Bus) : (faultedState r s b).mode = .faulted r := rfl
@[simp] theorem faultedState_bus (r : FaultReason) (s : State) (b : Bus) : (faultedState r s b).bus = b := rfl
@[simp] theorem faultedState_params (r : FaultReason) (s : State) (b : Bus) : (faultedState r s b).params = s.params := rfl

@[simp] theorem Bus.record_cells (b : Bus) (x : BusAccess) : (b.record x).cells = b.cells := rfl
@[simp] theorem Bus.record_windows (b : Bus) (x : BusAccess) : (b.record x).windows = b.windows := rfl
@[simp] theorem Bus.record_log (b : Bus) (x : BusAccess) : (b.record x).log = x :: b.log := rfl

@[simp] theorem BusResult.ok_andThen {α β : Type} (v : α) (b : Bus) (k : α → Bus → BusResult β) :
    (BusResult.ok v b).andThen k = k v b := rfl
@[simp] theorem BusResult.raised_andThen {α β : Type} (e : Nat) (b : Bus) (k : α → Bus → BusResult β) :
    (BusResult.raised e b).andThen k = .raised e b := rfl
@[simp] theorem BusResult.noCase_andThen {α β : Type} (k : α → Bus → BusResult β) :
    (BusResult.noCase).andThen k = .noCase := rfl

@[simp] theorem finish_ok (s t : State) (b : Bus) : finish s (.ok t b) = .next (t.setBus b) := rfl
@[simp] theorem finish_raised (s : State) (e : Nat) (b : Bus) :
    finish s (.raised e b) = .fault (.busError e (faultedState (.busError e) s b)) := rfl
@[simp] theorem finish_noCase (s : State) : finish s .noCase = .refused .illegalOperand := rfl

end Sys2Proof.Machine
end

