-- ==== Sys2Proof/Laws/Bus.lean ====
section
/-! SUPPORT. Everything a bus access can do, said once: its answer, the history, the memory it leaves; and the
relations "reached by accesses" and "reached by reads alone" that later proofs chain. -/

namespace Sys2Proof.Machine

/-! One read. -/

theorem Bus.read_ok_iff {b b' : Bus} {a : Word} {v : Byte} :
    b.read a = .ok v b' ↔ b.readReply a = .ok v ∧ b' = b.record (.read a v) := by
  unfold Bus.read
  cases h : b.readReply a with
  | ok w =>
    constructor
    · intro h; cases h; exact ⟨rfl, rfl⟩
    · rintro ⟨h, rfl⟩; cases h; rfl
  | error e => exact ⟨fun h => (by cases h), fun h => (by cases h.1)⟩

theorem Bus.read_raised_iff {b b' : Bus} {a : Word} {e : Nat} :
    b.read a = .raised e b' ↔ b.readReply a = .error e ∧ b' = b.record (.readRaised a e) := by
  unfold Bus.read
  cases h : b.readReply a with
  | ok w => exact ⟨fun h => (by cases h), fun h => (by cases h.1)⟩
  | error e =>
    constructor
    · intro h; cases h; exact ⟨rfl, rfl⟩
    · rintro ⟨h, rfl⟩; cases h; rfl

theorem Bus.read_ne_noCase (b : Bus) (a : Word) : b.read a ≠ .noCase := by
  unfold Bus.read
  split <;> simp

/-- Where the map says memory, a read answers the byte memory holds. -/
theorem Bus.read_of_cells {b : Bus} {a : Word} (h : b.readRule a = .cells) :
    b.read a = .ok (b.stored a) (b.record (.read a (b.stored a))) := by
  simp [Bus.read, Bus.readReply, h]

/-! One write. -/

theorem Bus.write_ok_iff {b b' : Bus} {a : Word} {v : Byte} {u : Unit} :
    b.write a v = .ok u b' ↔
      b.writeError a v = none ∧ b' = { b with cells := b.cellsAfterWrite a v }.record (.write a v) := by
  unfold Bus.write
  cases h : b.writeError a v with
  | none =>
    constructor
    · intro h; cases h; exact ⟨rfl, rfl⟩
    · rintro ⟨_, rfl⟩; rfl
  | some e => exact ⟨fun h => (by cases h), fun h => (by cases h.1)⟩

theorem Bus.write_raised_iff {b b' : Bus} {a : Word} {v : Byte} {e : Nat} :
    b.write a v = .raised e b' ↔ b.writeError a v = some e ∧ b' = b.record (.writeRaised a v e) := by
  unfold Bus.write
  cases h : b.writeError a v with
  | none => exact ⟨fun h => (by cases h), fun h => (by cases h.1)⟩
  | some e =>
    constructor
    · intro h; cases h; exact ⟨rfl, rfl⟩
    · rintro ⟨h, rfl⟩; cases h; rfl

theorem Bus.write_ne_noCase (b : Bus) (a : Word) (v : Byte) : b.write a v ≠ .noCase := by
  unfold Bus.write
  split <;> simp

/-- Where the map says memory, a write is taken and memory holds the byte. -/
theorem Bus.write_of_cells {b : Bus} {a : Word} (v : Byte) (h : b.writeRule a = .cells) :
    b.write a v = .ok () ({ b with cells := setCell b.cells a.toNat v }.record (.write a v)) := by
  simp [Bus.write, Bus.writeError, Bus.cellsAfterWrite, h]

/-- A write leaves every other byte of memory alone. -/
theorem Bus.stored_write_other {b b' : Bus} {a k : Word} {v : Byte} {u : Unit} (h : b.write a v = .ok u b')
    (hk : k ≠ a) : b'.stored k = b.stored k := by
  obtain ⟨-, rfl⟩ := Bus.write_ok_iff.1 h
  have hne : k.toNat ≠ a.toNat := fun e => hk (BitVec.eq_of_toNat_eq e)
  simp only [Bus.stored, Bus.record, Bus.cellsAfterWrite]
  split
  · exact cellAt_setCell_other _ _ hne
  · rfl

/-- In a canonical memory, where the map says memory, the address written then holds the byte written. -/
theorem Bus.stored_write_same {b b' : Bus} {a : Word} {v : Byte} {u : Unit} (hw : Memory.wf b.cells = true)
    (hr : b.writeRule a = .cells) (h : b.write a v = .ok u b') : b'.stored a = v := by
  obtain ⟨-, rfl⟩ := Bus.write_ok_iff.1 h
  simp only [Bus.stored, Bus.record, Bus.cellsAfterWrite, hr]
  exact cellAt_setCell_same _ _ hw

/-! Chains of accesses. -/

/-- A bus reached from another by accesses: the same map, the memory canonical if it was, the history extended. -/
structure Bus.Reaches (b b' : Bus) : Prop where
  windows : b'.windows = b.windows
  wf : Memory.wf b.cells = true → Memory.wf b'.cells = true
  log : ∃ new, b'.log = new ++ b.log

/-- A bus reached by reads alone: the memory is the same too. -/
structure Bus.ReadsTo (b b' : Bus) : Prop where
  windows : b'.windows = b.windows
  cells : b'.cells = b.cells
  log : ∃ new, b'.log = new ++ b.log

theorem Bus.Reaches.refl (b : Bus) : b.Reaches b := ⟨rfl, id, [], rfl⟩

theorem Bus.ReadsTo.refl (b : Bus) : b.ReadsTo b := ⟨rfl, rfl, [], rfl⟩

theorem Bus.Reaches.trans {b c d : Bus} (h : b.Reaches c) (k : c.Reaches d) : b.Reaches d := by
  obtain ⟨m, hm⟩ := h.log
  obtain ⟨n, hn⟩ := k.log
  exact ⟨k.windows.trans h.windows, fun w => k.wf (h.wf w), n ++ m, by rw [hn, hm, List.append_assoc]⟩

theorem Bus.ReadsTo.trans {b c d : Bus} (h : b.ReadsTo c) (k : c.ReadsTo d) : b.ReadsTo d := by
  obtain ⟨m, hm⟩ := h.log
  obtain ⟨n, hn⟩ := k.log
  exact ⟨k.windows.trans h.windows, k.cells.trans h.cells, n ++ m, by rw [hn, hm, List.append_assoc]⟩

theorem Bus.ReadsTo.reaches {b c : Bus} (h : b.ReadsTo c) : b.Reaches c :=
  ⟨h.windows, fun w => by rw [h.cells]; exact w, h.log⟩

theorem Bus.ReadsTo.stored {b c : Bus} (h : b.ReadsTo c) (a : Word) : c.stored a = b.stored a := by
  simp only [Bus.stored, h.cells]

theorem Bus.readsTo_record (b : Bus) (x : BusAccess) : b.ReadsTo (b.record x) := ⟨rfl, rfl, [x], rfl⟩

/-- Every bus a result carries meets `P`. -/
def BusResult.All {α : Type} (P : Bus → Prop) : BusResult α → Prop
  | .ok _ b => P b
  | .raised _ b => P b
  | .noCase => True

/-- Whatever relation composes along accesses, `andThen` composes it. -/
theorem BusResult.All.andThen {α β : Type} {R : Bus → Bus → Prop} (htrans : ∀ {b c d}, R b c → R c d → R b d)
    {b : Bus} {r : BusResult α} {k : α → Bus → BusResult β} (hr : r.All (R b))
    (hk : ∀ v c, (k v c).All (R c)) : (r.andThen k).All (R b) := by
  cases r with
  | ok v c =>
    have h := hk v c
    simp only [BusResult.ok_andThen]
    cases hkc : k v c with
    | ok w d => rw [hkc] at h; exact htrans hr h
    | raised e d => rw [hkc] at h; exact htrans hr h
    | noCase => trivial
  | raised e c => exact hr
  | noCase => trivial

theorem BusResult.All.ok {α : Type} {P : Bus → Prop} {r : BusResult α} {v : α} {b : Bus} (h : r.All P)
    (e : r = .ok v b) : P b := by subst e; exact h

theorem BusResult.All.raised {α : Type} {P : Bus → Prop} {r : BusResult α} {e : Nat} {b : Bus} (h : r.All P)
    (he : r = .raised e b) : P b := by subst he; exact h

theorem BusResult.All.imp {α : Type} {P Q : Bus → Prop} {r : BusResult α} (h : r.All P) (hpq : ∀ b, P b → Q b) :
    r.All Q := by
  cases r with
  | ok v b => exact hpq b h
  | raised e b => exact hpq b h
  | noCase => trivial

theorem Bus.read_readsTo (b : Bus) (a : Word) : (b.read a).All (b.ReadsTo ·) := by
  unfold Bus.read
  split
  · exact b.readsTo_record _
  · exact b.readsTo_record _

theorem Bus.readPair_readsTo (b : Bus) (l h : Word) : (b.readPair l h).All (b.ReadsTo ·) := by
  unfold Bus.readPair
  refine BusResult.All.andThen (R := Bus.ReadsTo) Bus.ReadsTo.trans (b.read_readsTo l) fun _ c => ?_
  exact BusResult.All.andThen (R := Bus.ReadsTo) Bus.ReadsTo.trans (c.read_readsTo h) fun _ d => Bus.ReadsTo.refl d

theorem Bus.write_reaches (b : Bus) (a : Word) (v : Byte) : (b.write a v).All (b.Reaches ·) := by
  unfold Bus.write
  split
  · refine ⟨rfl, fun w => ?_, [_], rfl⟩
    simp only [Bus.record, Bus.cellsAfterWrite]
    split
    · exact Memory.wf_setCell _ _ w a.isLt
    · exact w
  · exact (b.readsTo_record _).reaches

/-! A bus that raises no error. -/

theorem Bus.NeverRaises.readReply {b : Bus} (h : b.NeverRaises) (a : Word) : ∃ v, b.readReply a = .ok v := by
  unfold Bus.readReply Bus.readRule
  cases hf : b.windows.find? (fun w => w.holds a) with
  | none => exact ⟨_, rfl⟩
  | some w =>
    have hw := List.all_eq_true.1 h w (List.mem_of_find?_eq_some hf)
    simp only [Window.neverRaises, Bool.and_eq_true] at hw
    cases hr : w.onRead <;> simp_all

theorem Bus.NeverRaises.read {b : Bus} (h : b.NeverRaises) (a : Word) :
    ∃ v b', b.read a = .ok v b' ∧ b'.NeverRaises := by
  obtain ⟨v, hv⟩ := h.readReply a
  exact ⟨v, _, Bus.read_ok_iff.2 ⟨hv, rfl⟩, h⟩

theorem Bus.NeverRaises.write {b : Bus} (h : b.NeverRaises) (a : Word) (v : Byte) :
    ∃ b', b.write a v = .ok () b' ∧ b'.NeverRaises := by
  refine ⟨_, Bus.write_ok_iff.2 ⟨?_, rfl⟩, h⟩
  unfold Bus.writeError Bus.writeRule
  cases hf : b.windows.find? (fun w => w.holds a) with
  | none => rfl
  | some w =>
    have hw := List.all_eq_true.1 h w (List.mem_of_find?_eq_some hf)
    simp only [Window.neverRaises, Bool.and_eq_true] at hw
    cases hr : w.onWrite <;> simp_all

/-- On such a bus a result is a value, and the bus stays such a bus. -/
def BusResult.Answers {α : Type} (r : BusResult α) : Prop := ∃ v b, r = .ok v b ∧ b.NeverRaises

theorem BusResult.Answers.andThen {α β : Type} {r : BusResult α} {k : α → Bus → BusResult β} (hr : r.Answers)
    (hk : ∀ v b, r = .ok v b → b.NeverRaises → (k v b).Answers) : (r.andThen k).Answers := by
  obtain ⟨v, b, rfl, hb⟩ := hr
  exact hk v b rfl hb

theorem Bus.NeverRaises.read_answers {b : Bus} (h : b.NeverRaises) (a : Word) : (b.read a).Answers := by
  obtain ⟨v, b', hr, hb⟩ := h.read a
  exact ⟨v, b', hr, hb⟩

theorem Bus.NeverRaises.write_answers {b : Bus} (h : b.NeverRaises) (a : Word) (v : Byte) : (b.write a v).Answers := by
  obtain ⟨b', hr, hb⟩ := h.write a v
  exact ⟨(), b', hr, hb⟩

theorem Bus.NeverRaises.readPair_answers {b : Bus} (h : b.NeverRaises) (l k : Word) : (b.readPair l k).Answers :=
  (h.read_answers l).andThen fun _ _ _ h1 => (h1.read_answers k).andThen fun _ b2 _ h2 => ⟨_, b2, rfl, h2⟩

end Sys2Proof.Machine
end

