-- ==== Sys2Proof/Laws/Decode.lean ====
section
/-! SUPPORT. The laws of the byte-order helpers. -/

namespace Sys2Proof

@[simp] theorem concat_hi_lo (w : Word) : concat (hi w) (lo w) = w := by
  apply BitVec.eq_of_toNat_eq
  simp only [concat, hi, lo, BitVec.toNat_append, BitVec.extractLsb'_toNat, Nat.shiftRight_eq_div_pow, Nat.reducePow]
  rw [← Nat.shiftLeft_add_eq_or_of_lt (by omega), Nat.shiftLeft_eq]
  omega

@[simp] theorem concat_toNat (h l : Byte) : (concat h l).toNat = h.toNat * 256 + l.toNat := by
  simp only [concat, BitVec.toNat_append]
  rw [← Nat.shiftLeft_add_eq_or_of_lt (by omega), Nat.shiftLeft_eq]

@[simp] theorem hi_toNat (w : Word) : (hi w).toNat = w.toNat / 256 := by
  simp only [hi, BitVec.extractLsb'_toNat, Nat.shiftRight_eq_div_pow, Nat.reducePow]
  omega

@[simp] theorem lo_toNat (w : Word) : (lo w).toNat = w.toNat % 256 := by
  simp [lo, BitVec.extractLsb'_toNat]

@[simp] theorem hi_concat (h l : Byte) : hi (concat h l) = h := by
  apply BitVec.eq_of_toNat_eq
  rw [hi_toNat, concat_toNat]
  omega

@[simp] theorem lo_concat (h l : Byte) : lo (concat h l) = l := by
  apply BitVec.eq_of_toNat_eq
  rw [lo_toNat, concat_toNat]
  omega

end Sys2Proof
end

