-- ==== Sys2Proof/Laws/Operands.lean ====
section
/-! SUPPORT. Everything the resolver, the operand access, the stack and the shapes of a step can do, said once, so that
no later proof unfolds them. -/

namespace Sys2Proof

/-- An operand that `Load` has a case for. -/
def Operand.loads (o : Operand) : Bool := decide (o ≠ .implied)

/-- An operand that resolves to an address. -/
def Operand.addresses : Operand → Bool
  | .implied | .accumulator | .immediate _ => false
  | _ => true

/-- An operand of a read-modify-write instruction: the accumulator or an address. -/
def Operand.modifies (o : Operand) : Bool := o.addresses || decide (o = .accumulator)

theorem Operand.loads_of_modifies {o : Operand} (h : o.modifies = true) : o.loads = true := by
  cases o <;> simp_all [Operand.modifies, Operand.loads, Operand.addresses]

end Sys2Proof

namespace Sys2Proof.Machine

/-! Results that have a case. -/

/-- The result is not `noCase`. -/
def BusResult.HasCase {α : Type} : BusResult α → Prop
  | .ok _ _ => True
  | .raised _ _ => True
  | .noCase => False

theorem BusResult.HasCase.andThen {α β : Type} {r : BusResult α} {k : α → Bus → BusResult β} (hr : r.HasCase)
    (hk : ∀ v b, r = .ok v b → (k v b).HasCase) : (r.andThen k).HasCase := by
  cases r with
  | ok v b => exact hk v b rfl
  | raised e b => trivial
  | noCase => exact hr.elim

theorem Bus.read_hasCase (b : Bus) (a : Word) : (b.read a).HasCase := by
  cases h : b.read a with
  | noCase => exact absurd h (b.read_ne_noCase a)
  | _ => trivial

theorem Bus.write_hasCase (b : Bus) (a : Word) (v : Byte) : (b.write a v).HasCase := by
  cases h : b.write a v with
  | noCase => exact absurd h (b.write_ne_noCase a v)
  | _ => trivial

theorem Bus.readPair_hasCase (b : Bus) (l h : Word) : (b.readPair l h).HasCase :=
  (b.read_hasCase l).andThen fun _ b1 _ => (b1.read_hasCase h).andThen fun _ _ _ => trivial

/-- A value of `andThen` comes from a value of each part. -/
theorem BusResult.andThen_ok {α β : Type} {r : BusResult α} {k : α → Bus → BusResult β} {w : β} {c : Bus}
    (h : r.andThen k = .ok w c) : ∃ v b, r = .ok v b ∧ k v b = .ok w c := by
  cases r with
  | ok v b => exact ⟨v, b, rfl, h⟩
  | raised e b => cases h
  | noCase => cases h

/-! The resolver. -/

theorem resolve_readsTo (o : Operand) (s : State) (b : Bus) : (resolve o s b).All (b.ReadsTo ·) := by
  cases o with
  | indirect w =>
    exact BusResult.All.andThen (R := Bus.ReadsTo) Bus.ReadsTo.trans (b.readPair_readsTo _ _) fun _ d => Bus.ReadsTo.refl d
  | indirectX z =>
    exact BusResult.All.andThen (R := Bus.ReadsTo) Bus.ReadsTo.trans (b.readPair_readsTo _ _) fun _ d => Bus.ReadsTo.refl d
  | indirectY z =>
    exact BusResult.All.andThen (R := Bus.ReadsTo) Bus.ReadsTo.trans (b.readPair_readsTo _ _) fun _ d => Bus.ReadsTo.refl d
  | _ => exact Bus.ReadsTo.refl b

theorem resolve_hasCase (o : Operand) (s : State) (b : Bus) : (resolve o s b).HasCase := by
  cases o with
  | indirect w => exact (b.readPair_hasCase _ _).andThen fun _ _ _ => trivial
  | indirectX z => exact (b.readPair_hasCase _ _).andThen fun _ _ _ => trivial
  | indirectY z => exact (b.readPair_hasCase _ _).andThen fun _ _ _ => trivial
  | _ => trivial

theorem resolve_answers (o : Operand) (s : State) {b : Bus} (h : b.NeverRaises) : (resolve o s b).Answers := by
  cases o with
  | indirect w => exact (h.readPair_answers _ _).andThen fun _ b1 _ h1 => ⟨_, b1, rfl, h1⟩
  | indirectX z => exact (h.readPair_answers _ _).andThen fun _ b1 _ h1 => ⟨_, b1, rfl, h1⟩
  | indirectY z => exact (h.readPair_answers _ _).andThen fun _ b1 _ h1 => ⟨_, b1, rfl, h1⟩
  | _ => exact ⟨_, b, rfl, h⟩

/-- The kind of target each mode resolves to (R85). -/
theorem resolve_target {o : Operand} {s : State} {b c : Bus} {r : Resolved} (h : resolve o s b = .ok r c) :
    (o.loads = true → r.operand ≠ .noOperand) ∧ (o.addresses = true → ∃ a, r.operand = .address a) ∧
      (o = .accumulator → r.operand = .accumulator) := by
  cases o with
  | indirect w =>
    obtain ⟨v, d, -, hk⟩ := BusResult.andThen_ok h
    cases hk; simp
  | indirectX z =>
    obtain ⟨v, d, -, hk⟩ := BusResult.andThen_ok h
    cases hk; simp
  | indirectY z =>
    obtain ⟨v, d, -, hk⟩ := BusResult.andThen_ok h
    cases hk; simp [indexed]
  | implied => cases h; simp [Operand.loads, Operand.addresses]
  | accumulator => cases h; simp [Operand.addresses]
  | immediate v => cases h; simp [Operand.addresses]
  | _ => cases h; simp [indexed]

/-! The operand access. -/

theorem load_readsTo (t : Target) (s : State) (b : Bus) : (load t s b).All (b.ReadsTo ·) := by
  cases t with
  | address a => exact b.read_readsTo a
  | noOperand => trivial
  | _ => exact Bus.ReadsTo.refl b

theorem readOperand_readsTo (o : Operand) (s : State) (b : Bus) : (readOperand o s b).All (b.ReadsTo ·) := by
  refine BusResult.All.andThen (R := Bus.ReadsTo) Bus.ReadsTo.trans (resolve_readsTo o s b) fun r c => ?_
  exact BusResult.All.andThen (R := Bus.ReadsTo) Bus.ReadsTo.trans (load_readsTo _ s c) fun _ d => Bus.ReadsTo.refl d

theorem readOperand_hasCase {o : Operand} (ho : o.loads = true) (s : State) (b : Bus) :
    (readOperand o s b).HasCase := by
  refine (resolve_hasCase o s b).andThen fun r c hr => ?_
  have ht := (resolve_target hr).1 ho
  refine BusResult.HasCase.andThen ?_ fun _ _ _ => trivial
  cases hop : r.operand with
  | address a => exact c.read_hasCase a
  | immediate v => trivial
  | accumulator => trivial
  | noOperand => exact absurd hop ht

theorem readOperand_answers {o : Operand} (ho : o.loads = true) (s : State) {b : Bus} (h : b.NeverRaises) :
    (readOperand o s b).Answers := by
  refine (resolve_answers o s h).andThen fun r c hr hc => ?_
  have ht := (resolve_target hr).1 ho
  refine BusResult.Answers.andThen ?_ fun _ d _ hd => ⟨_, d, rfl, hd⟩
  cases hop : r.operand with
  | address a => exact hc.read_answers a
  | immediate v => exact ⟨v, c, rfl, hc⟩
  | accumulator => exact ⟨_, c, rfl, hc⟩
  | noOperand => exact absurd hop ht

theorem operandAddress_readsTo (o : Operand) (s : State) (b : Bus) : (operandAddress o s b).All (b.ReadsTo ·) := by
  refine BusResult.All.andThen (R := Bus.ReadsTo) Bus.ReadsTo.trans (resolve_readsTo o s b) fun r c => ?_
  cases r.operand with
  | address a => exact Bus.ReadsTo.refl c
  | _ => trivial

theorem operandAddress_hasCase {o : Operand} (ho : o.addresses = true) (s : State) (b : Bus) :
    (operandAddress o s b).HasCase := by
  refine (resolve_hasCase o s b).andThen fun r c hr => ?_
  obtain ⟨a, ha⟩ := (resolve_target hr).2.1 ho
  simp [ha, BusResult.HasCase]

theorem operandAddress_answers {o : Operand} (ho : o.addresses = true) (s : State) {b : Bus} (h : b.NeverRaises) :
    (operandAddress o s b).Answers := by
  refine (resolve_answers o s h).andThen fun r c hr hc => ?_
  obtain ⟨a, ha⟩ := (resolve_target hr).2.1 ho
  exact ⟨(a, r.pageCrossed), c, by simp [ha], hc⟩

/-! The stack. -/

theorem push_reaches (v : Byte) (s : State) (b : Bus) : (push v s b).All (b.Reaches ·) :=
  BusResult.All.andThen (R := Bus.Reaches) Bus.Reaches.trans (b.write_reaches _ v) fun _ c => Bus.Reaches.refl c

theorem push_hasCase (v : Byte) (s : State) (b : Bus) : (push v s b).HasCase :=
  (b.write_hasCase _ v).andThen fun _ _ _ => trivial

theorem push_answers (v : Byte) (s : State) {b : Bus} (h : b.NeverRaises) : (push v s b).Answers :=
  (h.write_answers _ v).andThen fun _ c _ hc => ⟨_, c, rfl, hc⟩

/-- What a push does to the registers: SP is decremented, nothing else (R62). -/
theorem push_ok {v : Byte} {s t : State} {b c : Bus} (h : push v s b = .ok t c) :
    t = s.setSp (s.sp - 1) ∧ b.write s.stackAddr v = .ok () c := by
  obtain ⟨u, d, hw, hk⟩ := BusResult.andThen_ok h
  cases hk
  exact ⟨rfl, hw⟩

theorem pull_readsTo (s : State) (b : Bus) : (pull s b).All (b.ReadsTo ·) :=
  BusResult.All.andThen (R := Bus.ReadsTo) Bus.ReadsTo.trans (b.read_readsTo _) fun _ c => Bus.ReadsTo.refl c

theorem pull_hasCase (s : State) (b : Bus) : (pull s b).HasCase :=
  (b.read_hasCase _).andThen fun _ _ _ => trivial

theorem pull_answers (s : State) {b : Bus} (h : b.NeverRaises) : (pull s b).Answers :=
  (h.read_answers _).andThen fun _ c _ hc => ⟨_, c, rfl, hc⟩

/-- What a pull does to the registers: SP is incremented, nothing else (R62). -/
theorem pull_ok {s t : State} {v : Byte} {b c : Bus} (h : pull s b = .ok (v, t) c) :
    t = s.setSp (s.sp + 1) ∧ b.read (s.setSp (s.sp + 1)).stackAddr = .ok v c := by
  obtain ⟨u, d, hr, hk⟩ := BusResult.andThen_ok h
  cases hk
  exact ⟨rfl, hr⟩

theorem pushWord_reaches (w : Word) (s : State) (b : Bus) : (pushWord w s b).All (b.Reaches ·) :=
  BusResult.All.andThen (R := Bus.Reaches) Bus.Reaches.trans (push_reaches _ s b) fun t c => push_reaches _ t c

theorem pushWord_hasCase (w : Word) (s : State) (b : Bus) : (pushWord w s b).HasCase :=
  (push_hasCase _ s b).andThen fun t c _ => push_hasCase _ t c

theorem pushWord_answers (w : Word) (s : State) {b : Bus} (h : b.NeverRaises) : (pushWord w s b).Answers :=
  (push_answers _ s h).andThen fun t _ _ hc => push_answers _ t hc

theorem pushWord_ok {w : Word} {s t : State} {b c : Bus} (h : pushWord w s b = .ok t c) :
    t = s.setSp (s.sp - 2) ∧ ∃ d, b.write s.stackAddr (hi w) = .ok () d ∧
      d.write (s.setSp (s.sp - 1)).stackAddr (lo w) = .ok () c := by
  obtain ⟨u, d, hp, hk⟩ := BusResult.andThen_ok h
  obtain ⟨rfl, h1⟩ := push_ok hp
  obtain ⟨rfl, h2⟩ := push_ok hk
  refine ⟨?_, d, h1, h2⟩
  have h3 : s.sp - 1 - 1 = s.sp - 2 := by bv_omega
  simp only [State.setSp, h3]

theorem pullWord_readsTo (s : State) (b : Bus) : (pullWord s b).All (b.ReadsTo ·) := by
  refine BusResult.All.andThen (R := Bus.ReadsTo) Bus.ReadsTo.trans (pull_readsTo s b) fun l c => ?_
  exact BusResult.All.andThen (R := Bus.ReadsTo) Bus.ReadsTo.trans (pull_readsTo l.2 c) fun _ d => Bus.ReadsTo.refl d

theorem pullWord_hasCase (s : State) (b : Bus) : (pullWord s b).HasCase :=
  (pull_hasCase s b).andThen fun l c _ => (pull_hasCase l.2 c).andThen fun _ _ _ => trivial

theorem pullWord_answers (s : State) {b : Bus} (h : b.NeverRaises) : (pullWord s b).Answers :=
  (pull_answers s h).andThen fun l _ _ hc => (pull_answers l.2 hc).andThen fun _ d _ hd => ⟨_, d, rfl, hd⟩

theorem pullWord_ok {w : Word} {s t : State} {b c : Bus} (h : pullWord s b = .ok (w, t) c) :
    t = s.setSp (s.sp + 2) ∧ ∃ l k d, b.read (s.setSp (s.sp + 1)).stackAddr = .ok l d ∧
      d.read (s.setSp (s.sp + 2)).stackAddr = .ok k c ∧ w = concat k l := by
  obtain ⟨⟨l, u⟩, d, hp, hk⟩ := BusResult.andThen_ok h
  obtain ⟨rfl, h1⟩ := pull_ok hp
  obtain ⟨⟨k, u⟩, e, hp2, hk2⟩ := BusResult.andThen_ok hk
  obtain ⟨rfl, h2⟩ := pull_ok hp2
  cases hk2
  have h3 : s.sp + 1 + 1 = s.sp + 2 := by bv_omega
  have h4 : (s.setSp (s.sp + 1)).setSp ((s.setSp (s.sp + 1)).sp + 1) = s.setSp (s.sp + 2) := by
    simp only [State.setSp, h3]
  rw [h4] at h2 ⊢
  exact ⟨rfl, l, k, d, h1, h2, rfl⟩

theorem enterTrap_reaches (ret vec : Word) (s : State) (b : Bus) : (enterTrap ret vec s b).All (b.Reaches ·) := by
  refine BusResult.All.andThen (R := Bus.Reaches) Bus.Reaches.trans (pushWord_reaches ret s b) fun t c => ?_
  refine BusResult.All.andThen (R := Bus.Reaches) Bus.Reaches.trans (push_reaches _ t c) fun u d => ?_
  refine BusResult.All.andThen (R := Bus.Reaches) Bus.Reaches.trans
    ((d.readPair_readsTo vec (vec + 1)).imp fun _ h => h.reaches) fun _ e => Bus.Reaches.refl e

theorem enterTrap_hasCase (ret vec : Word) (s : State) (b : Bus) : (enterTrap ret vec s b).HasCase :=
  (pushWord_hasCase ret s b).andThen fun t c _ => (push_hasCase _ t c).andThen fun _ d _ =>
    (d.readPair_hasCase vec (vec + 1)).andThen fun _ _ _ => trivial

theorem enterTrap_answers (ret vec : Word) (s : State) {b : Bus} (h : b.NeverRaises) :
    (enterTrap ret vec s b).Answers :=
  (pushWord_answers ret s h).andThen fun t _ _ hc => (push_answers _ t hc).andThen fun _ _ _ hd =>
    (hd.readPair_answers vec (vec + 1)).andThen fun _ e _ he => ⟨_, e, rfl, he⟩

theorem returnFromTrap_readsTo (s : State) (b : Bus) : (returnFromTrap s b).All (b.ReadsTo ·) :=
  BusResult.All.andThen (R := Bus.ReadsTo) Bus.ReadsTo.trans (pull_readsTo s b) fun _ c => pullWord_readsTo _ c

theorem returnFromTrap_hasCase (s : State) (b : Bus) : (returnFromTrap s b).HasCase :=
  (pull_hasCase s b).andThen fun _ c _ => pullWord_hasCase _ c

theorem returnFromTrap_answers (s : State) {b : Bus} (h : b.NeverRaises) : (returnFromTrap s b).Answers :=
  (pull_answers s h).andThen fun _ _ _ hc => pullWord_answers _ hc

/-! The step of an instruction. -/

/-- What holds of every instruction: it ends in all of its effects or none, its accesses only extend the history
and keep the memory canonical, the lifecycle and the parameters stay, it always has a case, and it completes on a bus
that raises no error. -/
structure StepFacts (s : State) (o : Host.Outcome State Fault Refusal) (r : BusResult State) : Prop where
  outcome : o = finish s r
  reaches : r.All (s.bus.Reaches ·)
  kept : ∀ t b, r = .ok t b → t.mode = s.mode ∧ t.params = s.params
  hasCase : r.HasCase
  answers : s.bus.NeverRaises → r.Answers

theorem readRow_facts {o : Operand} (ho : o.loads = true) (base : Nat) (pen : Resolved → Nat)
    (f : Byte → State → State) (s : State) (hf : ∀ m, (f m s).mode = s.mode ∧ (f m s).params = s.params) :
    ∃ r, StepFacts s (readRow o base pen f s) r :=
  ⟨_, rfl,
    BusResult.All.andThen (R := Bus.Reaches) Bus.Reaches.trans
      ((readOperand_readsTo o s s.bus).imp fun _ h => h.reaches) fun _ c => Bus.Reaches.refl c,
    fun t b h => by
      obtain ⟨rm, c, -, hk⟩ := BusResult.andThen_ok h
      cases hk
      exact hf rm.2,
    (readOperand_hasCase ho s s.bus).andThen fun _ _ _ => trivial,
    fun h => (readOperand_answers ho s h).andThen fun _ c _ hc => ⟨_, c, rfl, hc⟩⟩

theorem storeRow_facts {o : Operand} (ho : o.addresses = true) (base : Nat) (v : Byte) (s : State) :
    ∃ r, StepFacts s (storeRow o base v s) r :=
  ⟨_, rfl,
    BusResult.All.andThen (R := Bus.Reaches) Bus.Reaches.trans
      ((operandAddress_readsTo o s s.bus).imp fun _ h => h.reaches) fun _ c =>
        BusResult.All.andThen (R := Bus.Reaches) Bus.Reaches.trans (c.write_reaches _ v) fun _ d => Bus.Reaches.refl d,
    fun t b h => by
      obtain ⟨a, c, -, hk⟩ := BusResult.andThen_ok h
      obtain ⟨_, d, -, hk⟩ := BusResult.andThen_ok hk
      cases hk
      exact ⟨rfl, rfl⟩,
    (operandAddress_hasCase ho s s.bus).andThen fun _ c _ => (c.write_hasCase _ v).andThen fun _ _ _ => trivial,
    fun h => (operandAddress_answers ho s h).andThen fun _ _ _ hc => (hc.write_answers _ v).andThen
      fun _ d _ hd => ⟨_, d, rfl, hd⟩⟩

theorem store_reaches (t : Target) (v : Byte) (s : State) (b : Bus) : (store t v s b).All (b.Reaches ·) := by
  cases t with
  | address a =>
    exact BusResult.All.andThen (R := Bus.Reaches) Bus.Reaches.trans (b.write_reaches a v) fun _ c => Bus.Reaches.refl c
  | accumulator => exact Bus.Reaches.refl b
  | _ => trivial

/-- What `Store` does to the registers: A, for the Accumulator target; else nothing. -/
theorem store_ok {t : Target} {v : Byte} {s u : State} {b c : Bus} (h : store t v s b = .ok u c) :
    (t = .accumulator ∧ u = s.setA v ∧ c = b) ∨ ∃ a, t = .address a ∧ u = s ∧ b.write a v = .ok () c := by
  cases t with
  | address a =>
    obtain ⟨_, d, hw, hk⟩ := BusResult.andThen_ok h
    cases hk
    exact .inr ⟨a, rfl, rfl, hw⟩
  | accumulator => cases h; exact .inl ⟨rfl, rfl, rfl⟩
  | immediate _ => cases h
  | noOperand => cases h

theorem readOperand_modifies {o : Operand} (ho : o.modifies = true) {s : State} {b c : Bus} {r : Resolved} {m : Byte}
    (h : readOperand o s b = .ok (r, m) c) : r.operand = .accumulator ∨ ∃ a, r.operand = .address a := by
  obtain ⟨r', d, hr, hk⟩ := BusResult.andThen_ok h
  obtain ⟨m', e, -, hk⟩ := BusResult.andThen_ok hk
  cases hk
  simp only [Operand.modifies, Bool.or_eq_true, decide_eq_true_eq] at ho
  cases ho with
  | inl ho => exact .inr ((resolve_target hr).2.1 ho)
  | inr ho => exact .inl ((resolve_target hr).2.2 ho)

theorem modifyRow_facts {o : Operand} (ho : o.modifies = true) (base : Nat) (f : Byte → State → Byte × Byte)
    (s : State) : ∃ r, StepFacts s (modifyRow o base f s) r := by
  refine ⟨_, rfl, ?_, ?_, ?_, ?_⟩
  · refine BusResult.All.andThen (R := Bus.Reaches) Bus.Reaches.trans
      ((readOperand_readsTo o s s.bus).imp fun _ h => h.reaches) fun rm c => ?_
    exact BusResult.All.andThen (R := Bus.Reaches) Bus.Reaches.trans (store_reaches _ _ s c) fun _ d => Bus.Reaches.refl d
  · intro t b h
    obtain ⟨rm, c, -, hk⟩ := BusResult.andThen_ok h
    obtain ⟨u, d, hst, hk⟩ := BusResult.andThen_ok hk
    cases hk
    obtain ⟨-, rfl, -⟩ | ⟨a, -, rfl, -⟩ := store_ok hst <;> exact ⟨rfl, rfl⟩
  · refine (readOperand_hasCase (Operand.loads_of_modifies ho) s s.bus).andThen fun rm c hr => ?_
    refine BusResult.HasCase.andThen ?_ fun _ _ _ => trivial
    obtain h | ⟨a, h⟩ := readOperand_modifies ho hr
    · simp [h, store, BusResult.HasCase]
    · rw [h]; exact (c.write_hasCase a _).andThen fun _ _ _ => trivial
  · intro hq
    refine (readOperand_answers (Operand.loads_of_modifies ho) s hq).andThen fun rm c hr hc => ?_
    refine BusResult.Answers.andThen ?_ fun _ d _ hd => ⟨_, d, rfl, hd⟩
    obtain h | ⟨a, h⟩ := readOperand_modifies ho hr
    · rw [h]; exact ⟨_, c, rfl, hc⟩
    · rw [h]; exact (hc.write_answers a _).andThen fun _ d _ hd => ⟨_, d, rfl, hd⟩

theorem impliedRow_facts (base : Nat) (f : State → State) (s : State)
    (hf : (f s).mode = s.mode ∧ (f s).params = s.params) : ∃ r, StepFacts s (impliedRow base f s) r :=
  ⟨_, rfl, Bus.Reaches.refl s.bus, fun t b h => by cases h; exact hf, trivial, fun h => ⟨_, s.bus, rfl, h⟩⟩

theorem branchRow_facts (off : Byte) (taken : Bool) (s : State) : ∃ r, StepFacts s (branchRow off taken s) r := by
  cases taken with
  | false =>
    exact ⟨_, rfl, Bus.Reaches.refl s.bus, fun t b h => by cases h; exact ⟨rfl, rfl⟩, trivial,
      fun h => ⟨_, s.bus, rfl, h⟩⟩
  | true =>
    exact ⟨_, rfl, Bus.Reaches.refl s.bus, fun t b h => by cases h; exact ⟨rfl, rfl⟩, trivial,
      fun h => ⟨_, s.bus, rfl, h⟩⟩

theorem jumpRow_facts {o : Operand} (ho : o.addresses = true) (base : Nat) (s : State) :
    ∃ r, StepFacts s (jumpRow o base s) r :=
  ⟨_, rfl,
    BusResult.All.andThen (R := Bus.Reaches) Bus.Reaches.trans
      ((operandAddress_readsTo o s s.bus).imp fun _ h => h.reaches) fun _ c => Bus.Reaches.refl c,
    fun t b h => by
      obtain ⟨a, c, -, hk⟩ := BusResult.andThen_ok h
      cases hk
      exact ⟨rfl, rfl⟩,
    (operandAddress_hasCase ho s s.bus).andThen fun _ _ _ => trivial,
    fun h => (operandAddress_answers ho s h).andThen fun _ c _ hc => ⟨_, c, rfl, hc⟩⟩

theorem pushRow_facts (base : Nat) (v : Byte) (s : State) : ∃ r, StepFacts s (pushRow base v s) r :=
  ⟨_, rfl,
    BusResult.All.andThen (R := Bus.Reaches) Bus.Reaches.trans (push_reaches v s s.bus) fun _ c => Bus.Reaches.refl c,
    fun t b h => by
      obtain ⟨u, c, hp, hk⟩ := BusResult.andThen_ok h
      obtain ⟨rfl, -⟩ := push_ok hp
      cases hk
      exact ⟨rfl, rfl⟩,
    (push_hasCase v s s.bus).andThen fun _ _ _ => trivial,
    fun h => (push_answers v s h).andThen fun _ c _ hc => ⟨_, c, rfl, hc⟩⟩

theorem pullRow_facts (base : Nat) (f : Byte → State → State) (s : State)
    (hf : ∀ v t, (f v t).mode = t.mode ∧ (f v t).params = t.params) : ∃ r, StepFacts s (pullRow base f s) r :=
  ⟨_, rfl,
    BusResult.All.andThen (R := Bus.Reaches) Bus.Reaches.trans
      ((pull_readsTo s s.bus).imp fun _ h => h.reaches) fun _ c => Bus.Reaches.refl c,
    fun t b h => by
      obtain ⟨⟨v, u⟩, c, hp, hk⟩ := BusResult.andThen_ok h
      obtain ⟨rfl, -⟩ := pull_ok hp
      cases hk
      exact hf v _,
    (pull_hasCase s s.bus).andThen fun _ _ _ => trivial,
    fun h => (pull_answers s h).andThen fun _ c _ hc => ⟨_, c, rfl, hc⟩⟩

end Sys2Proof.Machine
end

