-- ==== Sys2Proof/Laws/Exec.lean ====
section
/-! SUPPORT. What every instruction and every step can do, said once: the facts of `StepFacts` for each constructor of
`Instr`, the cases of a fetch and of a step. -/

namespace Sys2Proof.Machine

theorem execJsr_facts (w : Word) (s : State) : ∃ r, StepFacts s (execJsr w s) r :=
  ⟨_, rfl,
    BusResult.All.andThen (R := Bus.Reaches) Bus.Reaches.trans
      ((operandAddress_readsTo (.absolute w) s s.bus).imp fun _ h => h.reaches) fun _ c =>
        BusResult.All.andThen (R := Bus.Reaches) Bus.Reaches.trans (pushWord_reaches _ s c) fun _ d => Bus.Reaches.refl d,
    fun t b h => by
      obtain ⟨a, c, -, hk⟩ := BusResult.andThen_ok h
      obtain ⟨u, d, hp, hk⟩ := BusResult.andThen_ok hk
      obtain ⟨rfl, -⟩ := pushWord_ok hp
      cases hk
      exact ⟨rfl, rfl⟩,
    (operandAddress_hasCase rfl s s.bus).andThen fun _ c _ => (pushWord_hasCase _ s c).andThen fun _ _ _ => trivial,
    fun h => (operandAddress_answers rfl s h).andThen fun _ _ _ hc => (pushWord_answers _ s hc).andThen
      fun _ d _ hd => ⟨_, d, rfl, hd⟩⟩

theorem execRts_facts (s : State) : ∃ r, StepFacts s (execRts s) r :=
  ⟨_, rfl,
    BusResult.All.andThen (R := Bus.Reaches) Bus.Reaches.trans
      ((pullWord_readsTo s s.bus).imp fun _ h => h.reaches) fun _ c => Bus.Reaches.refl c,
    fun t b h => by
      obtain ⟨⟨w, u⟩, c, hp, hk⟩ := BusResult.andThen_ok h
      obtain ⟨rfl, -⟩ := pullWord_ok hp
      cases hk
      exact ⟨rfl, rfl⟩,
    (pullWord_hasCase s s.bus).andThen fun _ _ _ => trivial,
    fun h => (pullWord_answers s h).andThen fun _ c _ hc => ⟨_, c, rfl, hc⟩⟩

/-- What trap entry does (R222, R238): three pushes, then the vector; SP and I are written. -/
theorem enterTrap_ok {ret vec w : Word} {s t : State} {b e : Bus} (h : enterTrap ret vec s b = .ok (w, t) e) :
    t = (s.setSp (s.sp - 3)).setP (setFlag s.p .i) ∧ ∃ c d, pushWord ret s b = .ok (s.setSp (s.sp - 2)) c ∧
      c.write (s.setSp (s.sp - 2)).stackAddr (pushedStatus s.p) = .ok () d ∧ d.readWord vec = .ok w e := by
  obtain ⟨u, c, hp, hk⟩ := BusResult.andThen_ok h
  obtain ⟨rfl, -⟩ := pushWord_ok hp
  obtain ⟨v, d, hq, hk⟩ := BusResult.andThen_ok hk
  obtain ⟨rfl, hw⟩ := push_ok hq
  obtain ⟨x, f, hr, hk⟩ := BusResult.andThen_ok hk
  cases hk
  have h3 : s.sp - 2 - 1 = s.sp - 3 := by bv_omega
  refine ⟨?_, c, d, hp, hw, hr⟩
  simp only [State.setSp, h3]

/-- What trap return does (R223, R239): three pulls; SP and P are written. -/
theorem returnFromTrap_ok {w : Word} {s t : State} {b e : Bus} (h : returnFromTrap s b = .ok (w, t) e) :
    ∃ v c, b.read (s.setSp (s.sp + 1)).stackAddr = .ok v c ∧
      t = (s.setSp (s.sp + 3)).setP (pulledStatus s.p v) ∧
      pullWord ((s.setSp (s.sp + 1)).setP (pulledStatus s.p v)) c = .ok (w, t) e := by
  obtain ⟨⟨v, u⟩, c, hp, hk⟩ := BusResult.andThen_ok h
  obtain ⟨rfl, hr⟩ := pull_ok hp
  have hk' := hk
  obtain ⟨ht, -⟩ := pullWord_ok hk
  have h3 : s.sp + 1 + 2 = s.sp + 3 := by bv_omega
  refine ⟨v, c, hr, ?_, hk'⟩
  rw [ht]
  simp only [State.setSp, State.setP, h3]

theorem execBrk_facts (s : State) : ∃ r, StepFacts s (execBrk s) r :=
  ⟨_, rfl,
    BusResult.All.andThen (R := Bus.Reaches) Bus.Reaches.trans (enterTrap_reaches _ _ s s.bus) fun _ c =>
      Bus.Reaches.refl c,
    fun t b h => by
      obtain ⟨⟨w, u⟩, c, hp, hk⟩ := BusResult.andThen_ok h
      obtain ⟨rfl, -⟩ := enterTrap_ok hp
      cases hk
      exact ⟨rfl, rfl⟩,
    (enterTrap_hasCase _ _ s s.bus).andThen fun _ _ _ => trivial,
    fun h => (enterTrap_answers _ _ s h).andThen fun _ c _ hc => ⟨_, c, rfl, hc⟩⟩

theorem execRti_facts (s : State) : ∃ r, StepFacts s (execRti s) r :=
  ⟨_, rfl,
    BusResult.All.andThen (R := Bus.Reaches) Bus.Reaches.trans
      ((returnFromTrap_readsTo s s.bus).imp fun _ h => h.reaches) fun _ c => Bus.Reaches.refl c,
    fun t b h => by
      obtain ⟨⟨w, u⟩, c, hp, hk⟩ := BusResult.andThen_ok h
      obtain ⟨v, d, -, rfl, -⟩ := returnFromTrap_ok hp
      cases hk
      exact ⟨rfl, rfl⟩,
    (returnFromTrap_hasCase s s.bus).andThen fun _ _ _ => trivial,
    fun h => (returnFromTrap_answers s h).andThen fun _ c _ hc => ⟨_, c, rfl, hc⟩⟩

/-- The facts that hold of every instruction. -/
theorem exec_facts (i : Instr) (s : State) : ∃ r, StepFacts s (exec i s) r := by
  cases i with
  | adcImm v => exact readRow_facts (o := (.immediate v)) rfl 2 crossPenalty adcRegs s fun _ => ⟨rfl, rfl⟩
  | adcZp z => exact readRow_facts (o := (.zeroPage z)) rfl 3 crossPenalty adcRegs s fun _ => ⟨rfl, rfl⟩
  | adcZpX z => exact readRow_facts (o := (.zeroPageX z)) rfl 4 crossPenalty adcRegs s fun _ => ⟨rfl, rfl⟩
  | adcAbs w => exact readRow_facts (o := (.absolute w)) rfl 4 crossPenalty adcRegs s fun _ => ⟨rfl, rfl⟩
  | adcAbsX w => exact readRow_facts (o := (.absoluteX w)) rfl 4 crossPenalty adcRegs s fun _ => ⟨rfl, rfl⟩
  | adcAbsY w => exact readRow_facts (o := (.absoluteY w)) rfl 4 crossPenalty adcRegs s fun _ => ⟨rfl, rfl⟩
  | adcIndX z => exact readRow_facts (o := (.indirectX z)) rfl 6 crossPenalty adcRegs s fun _ => ⟨rfl, rfl⟩
  | adcIndY z => exact readRow_facts (o := (.indirectY z)) rfl 5 crossPenalty adcRegs s fun _ => ⟨rfl, rfl⟩
  | sbcImm v => exact readRow_facts (o := (.immediate v)) rfl 2 crossPenalty sbcRegs s fun _ => ⟨rfl, rfl⟩
  | sbcZp z => exact readRow_facts (o := (.zeroPage z)) rfl 3 crossPenalty sbcRegs s fun _ => ⟨rfl, rfl⟩
  | sbcZpX z => exact readRow_facts (o := (.zeroPageX z)) rfl 4 crossPenalty sbcRegs s fun _ => ⟨rfl, rfl⟩
  | sbcAbs w => exact readRow_facts (o := (.absolute w)) rfl 4 crossPenalty sbcRegs s fun _ => ⟨rfl, rfl⟩
  | sbcAbsX w => exact readRow_facts (o := (.absoluteX w)) rfl 4 crossPenalty sbcRegs s fun _ => ⟨rfl, rfl⟩
  | sbcAbsY w => exact readRow_facts (o := (.absoluteY w)) rfl 4 crossPenalty sbcRegs s fun _ => ⟨rfl, rfl⟩
  | sbcIndX z => exact readRow_facts (o := (.indirectX z)) rfl 6 crossPenalty sbcRegs s fun _ => ⟨rfl, rfl⟩
  | sbcIndY z => exact readRow_facts (o := (.indirectY z)) rfl 5 crossPenalty sbcRegs s fun _ => ⟨rfl, rfl⟩
  | cmpImm v => exact readRow_facts (o := (.immediate v)) rfl 2 crossPenalty cmpRegs s fun _ => ⟨rfl, rfl⟩
  | cmpZp z => exact readRow_facts (o := (.zeroPage z)) rfl 3 crossPenalty cmpRegs s fun _ => ⟨rfl, rfl⟩
  | cmpZpX z => exact readRow_facts (o := (.zeroPageX z)) rfl 4 crossPenalty cmpRegs s fun _ => ⟨rfl, rfl⟩
  | cmpAbs w => exact readRow_facts (o := (.absolute w)) rfl 4 crossPenalty cmpRegs s fun _ => ⟨rfl, rfl⟩
  | cmpAbsX w => exact readRow_facts (o := (.absoluteX w)) rfl 4 crossPenalty cmpRegs s fun _ => ⟨rfl, rfl⟩
  | cmpAbsY w => exact readRow_facts (o := (.absoluteY w)) rfl 4 crossPenalty cmpRegs s fun _ => ⟨rfl, rfl⟩
  | cmpIndX z => exact readRow_facts (o := (.indirectX z)) rfl 6 crossPenalty cmpRegs s fun _ => ⟨rfl, rfl⟩
  | cmpIndY z => exact readRow_facts (o := (.indirectY z)) rfl 5 crossPenalty cmpRegs s fun _ => ⟨rfl, rfl⟩
  | cpxImm v => exact readRow_facts (o := (.immediate v)) rfl 2 noPenalty cpxRegs s fun _ => ⟨rfl, rfl⟩
  | cpxZp z => exact readRow_facts (o := (.zeroPage z)) rfl 3 noPenalty cpxRegs s fun _ => ⟨rfl, rfl⟩
  | cpxAbs w => exact readRow_facts (o := (.absolute w)) rfl 4 noPenalty cpxRegs s fun _ => ⟨rfl, rfl⟩
  | cpyImm v => exact readRow_facts (o := (.immediate v)) rfl 2 noPenalty cpyRegs s fun _ => ⟨rfl, rfl⟩
  | cpyZp z => exact readRow_facts (o := (.zeroPage z)) rfl 3 noPenalty cpyRegs s fun _ => ⟨rfl, rfl⟩
  | cpyAbs w => exact readRow_facts (o := (.absolute w)) rfl 4 noPenalty cpyRegs s fun _ => ⟨rfl, rfl⟩
  | incZp z => exact modifyRow_facts (o := (.zeroPage z)) rfl _ _ s
  | incZpX z => exact modifyRow_facts (o := (.zeroPageX z)) rfl _ _ s
  | incAbs w => exact modifyRow_facts (o := (.absolute w)) rfl _ _ s
  | incAbsX w => exact modifyRow_facts (o := (.absoluteX w)) rfl _ _ s
  | decZp z => exact modifyRow_facts (o := (.zeroPage z)) rfl _ _ s
  | decZpX z => exact modifyRow_facts (o := (.zeroPageX z)) rfl _ _ s
  | decAbs w => exact modifyRow_facts (o := (.absolute w)) rfl _ _ s
  | decAbsX w => exact modifyRow_facts (o := (.absoluteX w)) rfl _ _ s
  | inx => exact impliedRow_facts 2 (fun t => t.loadX (t.x + 1)) s ⟨rfl, rfl⟩
  | iny => exact impliedRow_facts 2 (fun t => t.loadY (t.y + 1)) s ⟨rfl, rfl⟩
  | dex => exact impliedRow_facts 2 (fun t => t.loadX (t.x - 1)) s ⟨rfl, rfl⟩
  | dey => exact impliedRow_facts 2 (fun t => t.loadY (t.y - 1)) s ⟨rfl, rfl⟩
  | eorImm v => exact readRow_facts (o := (.immediate v)) rfl 2 crossPenalty eorRegs s fun _ => ⟨rfl, rfl⟩
  | eorZp z => exact readRow_facts (o := (.zeroPage z)) rfl 3 crossPenalty eorRegs s fun _ => ⟨rfl, rfl⟩
  | eorZpX z => exact readRow_facts (o := (.zeroPageX z)) rfl 4 crossPenalty eorRegs s fun _ => ⟨rfl, rfl⟩
  | eorAbs w => exact readRow_facts (o := (.absolute w)) rfl 4 crossPenalty eorRegs s fun _ => ⟨rfl, rfl⟩
  | eorAbsX w => exact readRow_facts (o := (.absoluteX w)) rfl 4 crossPenalty eorRegs s fun _ => ⟨rfl, rfl⟩
  | eorAbsY w => exact readRow_facts (o := (.absoluteY w)) rfl 4 crossPenalty eorRegs s fun _ => ⟨rfl, rfl⟩
  | eorIndX z => exact readRow_facts (o := (.indirectX z)) rfl 6 crossPenalty eorRegs s fun _ => ⟨rfl, rfl⟩
  | eorIndY z => exact readRow_facts (o := (.indirectY z)) rfl 5 crossPenalty eorRegs s fun _ => ⟨rfl, rfl⟩
  | andImm v => exact readRow_facts (o := (.immediate v)) rfl 2 crossPenalty andRegs s fun _ => ⟨rfl, rfl⟩
  | andZp z => exact readRow_facts (o := (.zeroPage z)) rfl 3 crossPenalty andRegs s fun _ => ⟨rfl, rfl⟩
  | andZpX z => exact readRow_facts (o := (.zeroPageX z)) rfl 4 crossPenalty andRegs s fun _ => ⟨rfl, rfl⟩
  | andAbs w => exact readRow_facts (o := (.absolute w)) rfl 4 crossPenalty andRegs s fun _ => ⟨rfl, rfl⟩
  | andAbsX w => exact readRow_facts (o := (.absoluteX w)) rfl 4 crossPenalty andRegs s fun _ => ⟨rfl, rfl⟩
  | andAbsY w => exact readRow_facts (o := (.absoluteY w)) rfl 4 crossPenalty andRegs s fun _ => ⟨rfl, rfl⟩
  | andIndX z => exact readRow_facts (o := (.indirectX z)) rfl 6 crossPenalty andRegs s fun _ => ⟨rfl, rfl⟩
  | andIndY z => exact readRow_facts (o := (.indirectY z)) rfl 5 crossPenalty andRegs s fun _ => ⟨rfl, rfl⟩
  | oraImm v => exact readRow_facts (o := (.immediate v)) rfl 2 crossPenalty oraRegs s fun _ => ⟨rfl, rfl⟩
  | oraZp z => exact readRow_facts (o := (.zeroPage z)) rfl 3 crossPenalty oraRegs s fun _ => ⟨rfl, rfl⟩
  | oraZpX z => exact readRow_facts (o := (.zeroPageX z)) rfl 4 crossPenalty oraRegs s fun _ => ⟨rfl, rfl⟩
  | oraAbs w => exact readRow_facts (o := (.absolute w)) rfl 4 crossPenalty oraRegs s fun _ => ⟨rfl, rfl⟩
  | oraAbsX w => exact readRow_facts (o := (.absoluteX w)) rfl 4 crossPenalty oraRegs s fun _ => ⟨rfl, rfl⟩
  | oraAbsY w => exact readRow_facts (o := (.absoluteY w)) rfl 4 crossPenalty oraRegs s fun _ => ⟨rfl, rfl⟩
  | oraIndX z => exact readRow_facts (o := (.indirectX z)) rfl 6 crossPenalty oraRegs s fun _ => ⟨rfl, rfl⟩
  | oraIndY z => exact readRow_facts (o := (.indirectY z)) rfl 5 crossPenalty oraRegs s fun _ => ⟨rfl, rfl⟩
  | bitZp z => exact readRow_facts (o := (.zeroPage z)) rfl 3 noPenalty bitRegs s fun _ => ⟨rfl, rfl⟩
  | bitAbs w => exact readRow_facts (o := (.absolute w)) rfl 4 noPenalty bitRegs s fun _ => ⟨rfl, rfl⟩
  | lsrA => exact modifyRow_facts (o := .accumulator) rfl _ _ s
  | lsrZp z => exact modifyRow_facts (o := (.zeroPage z)) rfl _ _ s
  | lsrZpX z => exact modifyRow_facts (o := (.zeroPageX z)) rfl _ _ s
  | lsrAbs w => exact modifyRow_facts (o := (.absolute w)) rfl _ _ s
  | lsrAbsX w => exact modifyRow_facts (o := (.absoluteX w)) rfl _ _ s
  | aslA => exact modifyRow_facts (o := .accumulator) rfl _ _ s
  | aslZp z => exact modifyRow_facts (o := (.zeroPage z)) rfl _ _ s
  | aslZpX z => exact modifyRow_facts (o := (.zeroPageX z)) rfl _ _ s
  | aslAbs w => exact modifyRow_facts (o := (.absolute w)) rfl _ _ s
  | aslAbsX w => exact modifyRow_facts (o := (.absoluteX w)) rfl _ _ s
  | rolA => exact modifyRow_facts (o := .accumulator) rfl _ _ s
  | rolZp z => exact modifyRow_facts (o := (.zeroPage z)) rfl _ _ s
  | rolZpX z => exact modifyRow_facts (o := (.zeroPageX z)) rfl _ _ s
  | rolAbs w => exact modifyRow_facts (o := (.absolute w)) rfl _ _ s
  | rolAbsX w => exact modifyRow_facts (o := (.absoluteX w)) rfl _ _ s
  | rorA => exact modifyRow_facts (o := .accumulator) rfl _ _ s
  | rorZp z => exact modifyRow_facts (o := (.zeroPage z)) rfl _ _ s
  | rorZpX z => exact modifyRow_facts (o := (.zeroPageX z)) rfl _ _ s
  | rorAbs w => exact modifyRow_facts (o := (.absolute w)) rfl _ _ s
  | rorAbsX w => exact modifyRow_facts (o := (.absoluteX w)) rfl _ _ s
  | ldaImm v => exact readRow_facts (o := (.immediate v)) rfl 2 crossPenalty (fun m t => t.loadA m) s fun _ => ⟨rfl, rfl⟩
  | ldaZp z => exact readRow_facts (o := (.zeroPage z)) rfl 3 crossPenalty (fun m t => t.loadA m) s fun _ => ⟨rfl, rfl⟩
  | ldaZpX z => exact readRow_facts (o := (.zeroPageX z)) rfl 4 crossPenalty (fun m t => t.loadA m) s fun _ => ⟨rfl, rfl⟩
  | ldaAbs w => exact readRow_facts (o := (.absolute w)) rfl 4 crossPenalty (fun m t => t.loadA m) s fun _ => ⟨rfl, rfl⟩
  | ldaAbsX w => exact readRow_facts (o := (.absoluteX w)) rfl 4 crossPenalty (fun m t => t.loadA m) s fun _ => ⟨rfl, rfl⟩
  | ldaAbsY w => exact readRow_facts (o := (.absoluteY w)) rfl 4 crossPenalty (fun m t => t.loadA m) s fun _ => ⟨rfl, rfl⟩
  | ldaIndX z => exact readRow_facts (o := (.indirectX z)) rfl 6 crossPenalty (fun m t => t.loadA m) s fun _ => ⟨rfl, rfl⟩
  | ldaIndY z => exact readRow_facts (o := (.indirectY z)) rfl 5 crossPenalty (fun m t => t.loadA m) s fun _ => ⟨rfl, rfl⟩
  | ldxImm v => exact readRow_facts (o := (.immediate v)) rfl 2 crossPenalty (fun m t => t.loadX m) s fun _ => ⟨rfl, rfl⟩
  | ldxZp z => exact readRow_facts (o := (.zeroPage z)) rfl 3 crossPenalty (fun m t => t.loadX m) s fun _ => ⟨rfl, rfl⟩
  | ldxZpY z => exact readRow_facts (o := (.zeroPageY z)) rfl 4 crossPenalty (fun m t => t.loadX m) s fun _ => ⟨rfl, rfl⟩
  | ldxAbs w => exact readRow_facts (o := (.absolute w)) rfl 4 crossPenalty (fun m t => t.loadX m) s fun _ => ⟨rfl, rfl⟩
  | ldxAbsY w => exact readRow_facts (o := (.absoluteY w)) rfl 4 crossPenalty (fun m t => t.loadX m) s fun _ => ⟨rfl, rfl⟩
  | ldyImm v => exact readRow_facts (o := (.immediate v)) rfl 2 crossPenalty (fun m t => t.loadY m) s fun _ => ⟨rfl, rfl⟩
  | ldyZp z => exact readRow_facts (o := (.zeroPage z)) rfl 3 crossPenalty (fun m t => t.loadY m) s fun _ => ⟨rfl, rfl⟩
  | ldyZpX z => exact readRow_facts (o := (.zeroPageX z)) rfl 4 crossPenalty (fun m t => t.loadY m) s fun _ => ⟨rfl, rfl⟩
  | ldyAbs w => exact readRow_facts (o := (.absolute w)) rfl 4 crossPenalty (fun m t => t.loadY m) s fun _ => ⟨rfl, rfl⟩
  | ldyAbsX w => exact readRow_facts (o := (.absoluteX w)) rfl 4 crossPenalty (fun m t => t.loadY m) s fun _ => ⟨rfl, rfl⟩
  | staZp z => exact storeRow_facts (o := (.zeroPage z)) rfl _ _ s
  | staZpX z => exact storeRow_facts (o := (.zeroPageX z)) rfl _ _ s
  | staAbs w => exact storeRow_facts (o := (.absolute w)) rfl _ _ s
  | staAbsX w => exact storeRow_facts (o := (.absoluteX w)) rfl _ _ s
  | staAbsY w => exact storeRow_facts (o := (.absoluteY w)) rfl _ _ s
  | staIndX z => exact storeRow_facts (o := (.indirectX z)) rfl _ _ s
  | staIndY z => exact storeRow_facts (o := (.indirectY z)) rfl _ _ s
  | stxZp z => exact storeRow_facts (o := (.zeroPage z)) rfl _ _ s
  | stxZpY z => exact storeRow_facts (o := (.zeroPageY z)) rfl _ _ s
  | stxAbs w => exact storeRow_facts (o := (.absolute w)) rfl _ _ s
  | styZp z => exact storeRow_facts (o := (.zeroPage z)) rfl _ _ s
  | styZpX z => exact storeRow_facts (o := (.zeroPageX z)) rfl _ _ s
  | styAbs w => exact storeRow_facts (o := (.absolute w)) rfl _ _ s
  | tax => exact impliedRow_facts 2 (fun t => t.loadX t.a) s ⟨rfl, rfl⟩
  | tay => exact impliedRow_facts 2 (fun t => t.loadY t.a) s ⟨rfl, rfl⟩
  | txa => exact impliedRow_facts 2 (fun t => t.loadA t.x) s ⟨rfl, rfl⟩
  | tya => exact impliedRow_facts 2 (fun t => t.loadA t.y) s ⟨rfl, rfl⟩
  | tsx => exact impliedRow_facts 2 (fun t => t.loadX t.sp) s ⟨rfl, rfl⟩
  | txs => exact impliedRow_facts 2 (fun t => t.setSp t.x) s ⟨rfl, rfl⟩
  | pha => exact pushRow_facts _ _ s
  | php => exact pushRow_facts _ _ s
  | pla => exact pullRow_facts 4 plaRegs s fun _ _ => ⟨rfl, rfl⟩
  | plp => exact pullRow_facts 4 plpRegs s fun _ _ => ⟨rfl, rfl⟩
  | clc => exact impliedRow_facts 2 (fun t => t.setP (clearFlag t.p .c)) s ⟨rfl, rfl⟩
  | sec => exact impliedRow_facts 2 (fun t => t.setP (setFlag t.p .c)) s ⟨rfl, rfl⟩
  | cli => exact impliedRow_facts 2 (fun t => t.setP (clearFlag t.p .i)) s ⟨rfl, rfl⟩
  | sei => exact impliedRow_facts 2 (fun t => t.setP (setFlag t.p .i)) s ⟨rfl, rfl⟩
  | cld => exact impliedRow_facts 2 (fun t => t.setP (clearFlag t.p .d)) s ⟨rfl, rfl⟩
  | sed => exact impliedRow_facts 2 (fun t => t.setP (setFlag t.p .d)) s ⟨rfl, rfl⟩
  | clv => exact impliedRow_facts 2 (fun t => t.setP (clearFlag t.p .v)) s ⟨rfl, rfl⟩
  | bpl off => exact branchRow_facts _ _ s
  | bmi off => exact branchRow_facts _ _ s
  | bvc off => exact branchRow_facts _ _ s
  | bvs off => exact branchRow_facts _ _ s
  | bcc off => exact branchRow_facts _ _ s
  | bcs off => exact branchRow_facts _ _ s
  | bne off => exact branchRow_facts _ _ s
  | beq off => exact branchRow_facts _ _ s
  | jmpAbs w => exact jumpRow_facts (o := (.absolute w)) rfl _ s
  | jmpInd w => exact jumpRow_facts (o := (.indirect w)) rfl _ s
  | jsr w => exact execJsr_facts w s
  | rts => exact execRts_facts s
  | brk => exact execBrk_facts s
  | rti => exact execRti_facts s
  | nop => exact impliedRow_facts 2 (fun t => t) s ⟨rfl, rfl⟩

/-! Fetch and step. -/

theorem fetchRest_readsTo (r : OpcodeRow) (pc : Word) (b : Bus) : (fetchRest r pc b).All (b.ReadsTo ·) := by
  unfold fetchRest
  cases r.build with
  | bare i => exact Bus.ReadsTo.refl b
  | withByte f =>
    exact BusResult.All.andThen (R := Bus.ReadsTo) Bus.ReadsTo.trans (b.read_readsTo _) fun _ c => Bus.ReadsTo.refl c
  | withWord f =>
    exact BusResult.All.andThen (R := Bus.ReadsTo) Bus.ReadsTo.trans (b.readPair_readsTo _ _) fun _ c => Bus.ReadsTo.refl c

theorem fetchRest_hasCase (r : OpcodeRow) (pc : Word) (b : Bus) : (fetchRest r pc b).HasCase := by
  unfold fetchRest
  cases r.build with
  | bare i => trivial
  | withByte f => exact (b.read_hasCase _).andThen fun _ _ _ => trivial
  | withWord f => exact (b.readPair_hasCase _ _).andThen fun _ _ _ => trivial

theorem fetch_readsTo (s : State) : (fetch s).All (s.bus.ReadsTo ·) := by
  refine BusResult.All.andThen (R := Bus.ReadsTo) Bus.ReadsTo.trans (s.bus.read_readsTo s.pc) fun op b => ?_
  split
  · exact Bus.ReadsTo.refl b
  · split
    · exact Bus.ReadsTo.refl b
    · exact fetchRest_readsTo _ _ b

theorem fetch_hasCase (s : State) : (fetch s).HasCase := by
  refine (s.bus.read_hasCase s.pc).andThen fun op b _ => ?_
  split
  · trivial
  · split
    · trivial
    · exact fetchRest_hasCase _ _ b

/-- A step that answers a next state ran one instruction of a Running core, after reads alone. -/
theorem step_next {s t : State} (h : step s = .next t) :
    s.mode = .running ∧ ∃ i b, fetch s = .ok (.instr i) b ∧ s.bus.ReadsTo b ∧ exec i (s.setBus b) = .next t := by
  unfold step at h
  cases hm : s.mode with
  | unpowered => simp [hm] at h
  | faulted r => simp [hm] at h
  | running =>
    rw [hm] at h
    refine ⟨rfl, ?_⟩
    cases hf : fetch s with
    | noCase => rw [hf] at h; cases h
    | raised e b => rw [hf] at h; cases h
    | ok f b =>
      rw [hf] at h
      cases f with
      | undefined op => cases h
      | instr i => exact ⟨i, b, rfl, (fetch_readsTo s).ok hf, h⟩

/-- An instruction that answers a next state: the result it came from. -/
theorem exec_next {i : Instr} {s t : State} (h : exec i s = .next t) :
    s.bus.Reaches t.bus ∧ t.mode = s.mode ∧ t.params = s.params := by
  obtain ⟨r, hr⟩ := exec_facts i s
  rw [hr.outcome] at h
  cases hr' : r with
  | ok u b =>
    rw [hr'] at h
    cases h
    exact ⟨hr.reaches.ok hr', hr.kept u b hr'⟩
  | raised e b => rw [hr'] at h; cases h
  | noCase => rw [hr'] at h; cases h

/-- An instruction that faults: a bus error, with nothing committed. -/
theorem exec_fault {i : Instr} {s : State} {f : Fault} (h : exec i s = .fault f) :
    ∃ e b, f = .busError e (faultedState (.busError e) s b) ∧ s.bus.Reaches b := by
  obtain ⟨r, hr⟩ := exec_facts i s
  rw [hr.outcome] at h
  cases hr' : r with
  | ok u b => rw [hr'] at h; cases h
  | raised e b =>
    rw [hr'] at h
    cases h
    exact ⟨e, b, rfl, hr.reaches.raised hr'⟩
  | noCase => rw [hr'] at h; cases h

/-- A step that faults: a DecodeError after one read, or a bus error, with nothing committed. -/
theorem step_fault {s : State} {f : Fault} (h : step s = .fault f) :
    s.mode = .running ∧ ∃ b, s.bus.Reaches b ∧
      ((∃ op, f = .decodeError op s.pc (faultedState (.decodeError op s.pc) s b) ∧ fetch s = .ok (.undefined op) b) ∨
        ∃ e, f = .busError e (faultedState (.busError e) s b)) := by
  unfold step at h
  cases hm : s.mode with
  | unpowered => simp [hm] at h
  | faulted r => simp [hm] at h
  | running =>
    rw [hm] at h
    refine ⟨rfl, ?_⟩
    cases hf : fetch s with
    | noCase => rw [hf] at h; cases h
    | raised e b =>
      rw [hf] at h
      cases h
      exact ⟨b, ((fetch_readsTo s).raised hf).reaches, .inr ⟨e, rfl⟩⟩
    | ok g b =>
      rw [hf] at h
      have hb := ((fetch_readsTo s).ok hf).reaches
      cases g with
      | undefined op => cases h; exact ⟨b, hb, .inl ⟨op, rfl, rfl⟩⟩
      | instr i =>
        obtain ⟨e, c, rfl, hc⟩ := exec_fault h
        exact ⟨c, hb.trans hc, .inr ⟨e, rfl⟩⟩

end Sys2Proof.Machine
end

