-- ==== Sys2Proof/Laws/Flags.lean ====
section
/-! SUPPORT. The laws of the status register: every flag of P after every flag computation. -/

namespace Sys2Proof.Machine

/-- Two status bytes with the same eight flags are equal. -/
theorem status_ext {p q : Byte} (h : ∀ f, testFlag p f = testFlag q f) : p = q := by
  apply BitVec.eq_of_getLsbD_eq
  intro i hi
  have hc := h .c; have hz := h .z; have hii := h .i; have hd := h .d
  have hb := h .b; have hu := h .u; have hv := h .v; have hn := h .n
  simp only [testFlag, Flag.bit] at hc hz hii hd hb hu hv hn
  match i, hi with
  | 0, _ => exact hc
  | 1, _ => exact hz
  | 2, _ => exact hii
  | 3, _ => exact hd
  | 4, _ => exact hb
  | 5, _ => exact hu
  | 6, _ => exact hv
  | 7, _ => exact hn

@[simp] theorem testFlag_setFlag (p : Byte) (f g : Flag) :
    testFlag (setFlag p f) g = if g = f then true else testFlag p g := by
  cases f <;> cases g <;> simp [testFlag, setFlag, Flag.mask, Flag.bit]

@[simp] theorem testFlag_clearFlag (p : Byte) (f g : Flag) :
    testFlag (clearFlag p f) g = if g = f then false else testFlag p g := by
  cases f <;> cases g <;> simp [testFlag, clearFlag, Flag.mask, Flag.bit]

@[simp] theorem testFlag_writeFlag (p : Byte) (f g : Flag) (v : Bool) :
    testFlag (writeFlag p f v) g = if g = f then v else testFlag p g := by
  cases v <;> simp [writeFlag]

@[simp] theorem testFlag_setZN (p v : Byte) (g : Flag) :
    testFlag (setZN p v) g =
      match g with
      | .n => v.getLsbD 7
      | .z => v == 0
      | f => testFlag p f := by
  cases g <;> simp [setZN]

@[simp] theorem testFlag_pushedStatus (p : Byte) (g : Flag) :
    testFlag (pushedStatus p) g =
      match g with
      | .b => true
      | .u => true
      | f => testFlag p f := by
  cases g <;> simp [testFlag, pushedStatus, placeholders, Flag.bit]

@[simp] theorem testFlag_pulledStatus (p v : Byte) (g : Flag) :
    testFlag (pulledStatus p v) g =
      match g with
      | .b => testFlag p .b
      | .u => testFlag p .u
      | f => testFlag v f := by
  cases g <;> simp [testFlag, pulledStatus, placeholders, Flag.bit]

@[simp] theorem testFlag_compareFlags (p t m : Byte) (g : Flag) :
    testFlag (compareFlags p t m) g =
      match g with
      | .n => (t - m).getLsbD 7
      | .z => t == m
      | .c => decide (m.toNat ≤ t.toNat)
      | f => testFlag p f := by
  cases g <;> simp [compareFlags]

@[simp] theorem testFlag_sumFlags (p a m : Byte) (c : Bool) (g : Flag) :
    testFlag (sumFlags p a m c) g =
      match g with
      | .n => (sumByte a m c).getLsbD 7
      | .z => sumByte a m c == 0
      | .v => sumOverflow a m c
      | .c => sumCarry a m c
      | f => testFlag p f := by
  cases g <;> simp [sumFlags]

@[simp] theorem testFlag_shiftFlags (p r : Byte) (out : Bool) (g : Flag) :
    testFlag (shiftFlags p out r) g =
      match g with
      | .n => r.getLsbD 7
      | .z => r == 0
      | .c => out
      | f => testFlag p f := by
  cases g <;> simp [shiftFlags]

@[simp] theorem testFlag_bitFlags (p a m : Byte) (g : Flag) :
    testFlag (bitFlags p a m) g =
      match g with
      | .n => m.getLsbD 7
      | .v => m.getLsbD 6
      | .z => (a &&& m) == 0
      | f => testFlag p f := by
  cases g <;> simp [bitFlags]

end Sys2Proof.Machine
end

