-- ==== Sys2Proof/Laws/History.lean ====
section
/-! SUPPORT. What each shared operation adds to the history of bus accesses, said once: its accesses in order when it
answers; and that an error ends it at the access that raised it. -/

namespace Sys2Proof.Machine

/-! The accesses of an operation that answers. -/

/-- From bus `b`, exactly these accesses lead to `c`, and the bus raised an error at none of them. -/
def Bus.Makes (b c : Bus) (xs : List (AccessKind × Word)) : Prop :=
  ∃ new, c.log = new ++ b.log ∧ new.reverse.map accessAt = xs ∧ ∀ x ∈ new, accessError x = none

theorem Bus.Makes.refl (b : Bus) : b.Makes b [] := ⟨[], rfl, rfl, by simp⟩

theorem Bus.Makes.trans {b c d : Bus} {xs ys : List (AccessKind × Word)} (h : b.Makes c xs) (k : c.Makes d ys) :
    b.Makes d (xs ++ ys) := by
  obtain ⟨m, hm, rfl, em⟩ := h
  obtain ⟨n, hn, rfl, en⟩ := k
  refine ⟨n ++ m, by rw [hn, hm, List.append_assoc], by simp, fun x hx => ?_⟩
  exact (List.mem_append.1 hx).elim (en x) (em x)

theorem Bus.read_makes {b c : Bus} {a : Word} {v : Byte} (h : b.read a = .ok v c) : b.Makes c [(.read, a)] := by
  obtain ⟨-, rfl⟩ := Bus.read_ok_iff.1 h
  exact ⟨[_], rfl, rfl, by simp [accessError]⟩

theorem Bus.write_makes {b c : Bus} {a : Word} {v : Byte} {u : Unit} (h : b.write a v = .ok u c) :
    b.Makes c [(.write, a)] := by
  obtain ⟨-, rfl⟩ := Bus.write_ok_iff.1 h
  exact ⟨[_], rfl, rfl, by simp [accessError]⟩

theorem Bus.readPair_makes {b c : Bus} {l h w : Word} (hr : b.readPair l h = .ok w c) :
    b.Makes c [(.read, l), (.read, h)] := by
  obtain ⟨_, d, h1, hk⟩ := BusResult.andThen_ok hr
  obtain ⟨_, e, h2, hk⟩ := BusResult.andThen_ok hk
  cases hk
  exact (Bus.read_makes h1).trans (Bus.read_makes h2)

theorem resolve_makes {o : Operand} {s : State} {b c : Bus} {r : Resolved} (h : resolve o s b = .ok r c) :
    b.Makes c (pointerAccesses s o) := by
  cases o with
  | indirect w => obtain ⟨_, d, h1, hk⟩ := BusResult.andThen_ok h; cases hk; exact Bus.readPair_makes h1
  | indirectX z => obtain ⟨_, d, h1, hk⟩ := BusResult.andThen_ok h; cases hk; exact Bus.readPair_makes h1
  | indirectY z => obtain ⟨_, d, h1, hk⟩ := BusResult.andThen_ok h; cases hk; exact Bus.readPair_makes h1
  | _ => cases h; exact Bus.Makes.refl b

theorem load_makes {t : Target} {s : State} {b c : Bus} {v : Byte} (h : load t s b = .ok v c) :
    b.Makes c (targetAccesses [.read] t) := by
  cases t with
  | address a => exact Bus.read_makes h
  | noOperand => cases h
  | _ => cases h; exact Bus.Makes.refl b

theorem store_makes {t : Target} {v : Byte} {s u : State} {b c : Bus} (h : store t v s b = .ok u c) :
    b.Makes c (targetAccesses [.write] t) := by
  obtain ⟨rfl, -, rfl⟩ | ⟨a, rfl, -, hw⟩ := store_ok h
  · exact Bus.Makes.refl _
  · exact Bus.write_makes hw

/-- What the operand resolved to, and the accesses of resolving it and reading it. -/
theorem readOperand_makes {o : Operand} {s : State} {b c : Bus} {r : Resolved} {m : Byte}
    (h : readOperand o s b = .ok (r, m) c) :
    (∃ d, resolve o s b = .ok r d) ∧ b.Makes c (pointerAccesses s o ++ targetAccesses [.read] r.operand) := by
  obtain ⟨r', d, hr, hk⟩ := BusResult.andThen_ok h
  obtain ⟨m', e, hl, hk⟩ := BusResult.andThen_ok hk
  cases hk
  exact ⟨⟨d, hr⟩, (resolve_makes hr).trans (load_makes hl)⟩

/-- What the operand resolved to, and the accesses of resolving it. -/
theorem operandAddress_makes {o : Operand} {s : State} {b c : Bus} {a : Word × Bool}
    (h : operandAddress o s b = .ok a c) :
    (∃ r, resolve o s b = .ok r c ∧ r.operand = .address a.1 ∧ r.pageCrossed = a.2) ∧
      b.Makes c (pointerAccesses s o) := by
  obtain ⟨r, d, hr, hk⟩ := BusResult.andThen_ok h
  revert hk
  cases ho : r.operand <;> intro hk <;> cases hk
  exact ⟨⟨r, hr, ho, rfl⟩, resolve_makes hr⟩

theorem pushWord_makes {w : Word} {s t : State} {b c : Bus} (h : pushWord w s b = .ok t c) :
    b.Makes c [(.write, stackSlot s s.sp), (.write, stackSlot s (s.sp - 1))] := by
  obtain ⟨-, d, h1, h2⟩ := pushWord_ok h
  exact (Bus.write_makes h1).trans (Bus.write_makes h2)

theorem pullWord_makes {w : Word} {s t : State} {b c : Bus} (h : pullWord s b = .ok (w, t) c) :
    b.Makes c [(.read, stackSlot s (s.sp + 1)), (.read, stackSlot s (s.sp + 2))] := by
  obtain ⟨-, l, k, d, h1, h2, -⟩ := pullWord_ok h
  exact (Bus.read_makes h1).trans (Bus.read_makes h2)

theorem enterTrap_makes {ret vec w : Word} {s t : State} {b e : Bus} (h : enterTrap ret vec s b = .ok (w, t) e) :
    b.Makes e [(.write, stackSlot s s.sp), (.write, stackSlot s (s.sp - 1)), (.write, stackSlot s (s.sp - 2)),
      (.read, vec), (.read, vec + 1)] := by
  obtain ⟨-, c, d, h1, h2, h3⟩ := enterTrap_ok h
  exact ((pushWord_makes h1).trans (Bus.write_makes h2)).trans (Bus.readPair_makes h3)

theorem returnFromTrap_makes {w : Word} {s t : State} {b e : Bus} (h : returnFromTrap s b = .ok (w, t) e) :
    b.Makes e [(.read, stackSlot s (s.sp + 1)), (.read, stackSlot s (s.sp + 2)), (.read, stackSlot s (s.sp + 3))] := by
  obtain ⟨v, c, h1, -, h2⟩ := returnFromTrap_ok h
  have k := (Bus.read_makes h1).trans (pullWord_makes h2)
  have e1 : s.sp + 1 + 1 = s.sp + 2 := by bv_omega
  have e2 : s.sp + 1 + 2 = s.sp + 3 := by bv_omega
  simpa only [stackSlot, State.stackAddr, State.setSp, State.setP, e1, e2, List.cons_append, List.nil_append] using k

/-! An error ends an operation at the access that raised it. -/

/-- The result made accesses at which the bus raised nothing, but for the last one of a result that raises. -/
def BusResult.EndsAtError {α : Type} (b : Bus) : BusResult α → Prop
  | .ok _ c => ∃ new, c.log = new ++ b.log ∧ ∀ x ∈ new, accessError x = none
  | .raised e c => ∃ x new, c.log = x :: (new ++ b.log) ∧ accessError x = some e ∧ ∀ y ∈ new, accessError y = none
  | .noCase => True

theorem BusResult.EndsAtError.ok {α : Type} (v : α) (b : Bus) : (BusResult.ok v b).EndsAtError b :=
  ⟨[], rfl, by simp⟩

theorem BusResult.EndsAtError.andThen {α β : Type} {b : Bus} {r : BusResult α} {k : α → Bus → BusResult β}
    (hr : r.EndsAtError b) (hk : ∀ v c, (k v c).EndsAtError c) : (r.andThen k).EndsAtError b := by
  cases r with
  | ok v c =>
    obtain ⟨m, hm, em⟩ := hr
    have h := hk v c
    simp only [BusResult.ok_andThen]
    cases hkc : k v c with
    | ok w d =>
      rw [hkc] at h
      obtain ⟨n, hn, en⟩ := h
      exact ⟨n ++ m, by rw [hn, hm, List.append_assoc], fun x hx => (List.mem_append.1 hx).elim (en x) (em x)⟩
    | raised e d =>
      rw [hkc] at h
      obtain ⟨x, n, hn, hx, en⟩ := h
      exact ⟨x, n ++ m, by rw [hn, hm, List.append_assoc], hx, fun y hy => (List.mem_append.1 hy).elim (en y) (em y)⟩
    | noCase => trivial
  | raised e c => exact hr
  | noCase => trivial

theorem Bus.read_endsAtError (b : Bus) (a : Word) : (b.read a).EndsAtError b := by
  unfold Bus.read
  split
  · exact ⟨[_], rfl, by simp [accessError]⟩
  · exact ⟨_, [], rfl, rfl, by simp⟩

theorem Bus.write_endsAtError (b : Bus) (a : Word) (v : Byte) : (b.write a v).EndsAtError b := by
  unfold Bus.write
  split
  · exact ⟨[_], rfl, by simp [accessError]⟩
  · exact ⟨_, [], rfl, rfl, by simp⟩

theorem Bus.readPair_endsAtError (b : Bus) (l h : Word) : (b.readPair l h).EndsAtError b :=
  (b.read_endsAtError l).andThen fun _ c => (c.read_endsAtError h).andThen fun _ d => .ok _ d

theorem resolve_endsAtError (o : Operand) (s : State) (b : Bus) : (resolve o s b).EndsAtError b := by
  cases o with
  | indirect w => exact (b.readPair_endsAtError _ _).andThen fun _ c => .ok _ c
  | indirectX z => exact (b.readPair_endsAtError _ _).andThen fun _ c => .ok _ c
  | indirectY z => exact (b.readPair_endsAtError _ _).andThen fun _ c => .ok _ c
  | _ => exact .ok _ b

theorem load_endsAtError (t : Target) (s : State) (b : Bus) : (load t s b).EndsAtError b := by
  cases t with
  | address a => exact b.read_endsAtError a
  | noOperand => trivial
  | _ => exact .ok _ b

theorem store_endsAtError (t : Target) (v : Byte) (s : State) (b : Bus) : (store t v s b).EndsAtError b := by
  cases t with
  | address a => exact (b.write_endsAtError a v).andThen fun _ c => .ok _ c
  | accumulator => exact .ok _ b
  | _ => trivial

theorem readOperand_endsAtError (o : Operand) (s : State) (b : Bus) : (readOperand o s b).EndsAtError b :=
  (resolve_endsAtError o s b).andThen fun r c => (load_endsAtError r.operand s c).andThen fun _ d => .ok _ d

theorem operandAddress_endsAtError (o : Operand) (s : State) (b : Bus) : (operandAddress o s b).EndsAtError b :=
  (resolve_endsAtError o s b).andThen fun r c => by
    cases r.operand with
    | address a => exact .ok _ c
    | _ => trivial

theorem push_endsAtError (v : Byte) (s : State) (b : Bus) : (push v s b).EndsAtError b :=
  (b.write_endsAtError _ v).andThen fun _ c => .ok _ c

theorem pull_endsAtError (s : State) (b : Bus) : (pull s b).EndsAtError b :=
  (b.read_endsAtError _).andThen fun _ c => .ok _ c

theorem pushWord_endsAtError (w : Word) (s : State) (b : Bus) : (pushWord w s b).EndsAtError b :=
  (push_endsAtError _ s b).andThen fun t c => push_endsAtError _ t c

theorem pullWord_endsAtError (s : State) (b : Bus) : (pullWord s b).EndsAtError b :=
  (pull_endsAtError s b).andThen fun l c => (pull_endsAtError l.2 c).andThen fun _ d => .ok _ d

theorem enterTrap_endsAtError (ret vec : Word) (s : State) (b : Bus) : (enterTrap ret vec s b).EndsAtError b :=
  (pushWord_endsAtError ret s b).andThen fun t c => (push_endsAtError _ t c).andThen fun _ d =>
    (d.readPair_endsAtError _ _).andThen fun _ e => .ok _ e

theorem returnFromTrap_endsAtError (s : State) (b : Bus) : (returnFromTrap s b).EndsAtError b :=
  (pull_endsAtError s b).andThen fun _ c => pullWord_endsAtError _ c

theorem fetchRest_endsAtError (r : OpcodeRow) (pc : Word) (b : Bus) : (fetchRest r pc b).EndsAtError b := by
  unfold fetchRest
  split
  · exact .ok _ b
  · exact (b.read_endsAtError _).andThen fun _ c => .ok _ c
  · exact (b.readPair_endsAtError _ _).andThen fun _ c => .ok _ c

theorem fetch_endsAtError (s : State) : (fetch s).EndsAtError s.bus :=
  (s.bus.read_endsAtError s.pc).andThen fun op c => by
    split
    · exact .ok _ c
    · split
      · exact .ok _ c
      · exact fetchRest_endsAtError _ _ c

end Sys2Proof.Machine
end

