-- ==== Sys2Proof/Laws/PerInstr.lean ====
section
/-! SUPPORT. Statements about the syntax of every instruction, one lemma per constructor of `Instr`. -/

namespace Sys2Proof.Laws.RowOfInstr

/-- The instruction has a row of the opcode table, both lookups of R83 find it, its length is that of R81, and the row
makes the instruction back from its operand bytes. -/
def Statement (i : Instr) : Prop :=
  ∃ r : OpcodeRow, i.row = some r ∧ findByte r.byte = some r ∧ r.operation = i.operation ∧
    r.mode = i.operand.mode ∧ r.length = i.operand.length ∧ ∀ rest, r.take (i.operand.bytes ++ rest) = .ok (i, rest)

/-- A row without operand bytes. -/
theorem of_bare (i : Instr) (r : OpcodeRow) (hb : r.build = .bare i) (h1 : i.row = some r)
    (h2 : findByte r.byte = some r) (h3 : r.operation = i.operation) (h4 : r.mode = i.operand.mode)
    (h5 : r.length = i.operand.length) (h6 : i.operand.bytes = []) : Statement i :=
  ⟨r, h1, h2, h3, h4, h5, fun rest => by rw [h6]; simp [OpcodeRow.take, hb]⟩

/-- A row with one operand byte. -/
theorem of_byte (f : Byte → Instr) (v : Byte) (r : OpcodeRow) (hb : r.build = .withByte f)
    (h1 : (f v).row = some r) (h2 : findByte r.byte = some r) (h3 : r.operation = (f v).operation)
    (h4 : r.mode = (f v).operand.mode) (h5 : r.length = (f v).operand.length) (h6 : (f v).operand.bytes = [v]) :
    Statement (f v) :=
  ⟨r, h1, h2, h3, h4, h5, fun rest => by rw [h6]; simp [OpcodeRow.take, hb]⟩

/-- A row with two operand bytes, little-endian. -/
theorem of_word (f : Word → Instr) (w : Word) (r : OpcodeRow) (hb : r.build = .withWord f)
    (h1 : (f w).row = some r) (h2 : findByte r.byte = some r) (h3 : r.operation = (f w).operation)
    (h4 : r.mode = (f w).operand.mode) (h5 : r.length = (f w).operand.length)
    (h6 : (f w).operand.bytes = [lo w, hi w]) : Statement (f w) :=
  ⟨r, h1, h2, h3, h4, h5, fun rest => by rw [h6]; simp [OpcodeRow.take, hb]⟩

theorem adcImm (v : Byte) : Statement (.adcImm v) :=
  of_byte .adcImm v ⟨0x69, .adc, .immediate, 2, 2, .withByte .adcImm⟩ rfl rfl rfl rfl rfl rfl rfl
theorem adcZp (z : Byte) : Statement (.adcZp z) :=
  of_byte .adcZp z ⟨0x65, .adc, .zeroPage, 2, 3, .withByte .adcZp⟩ rfl rfl rfl rfl rfl rfl rfl
theorem adcZpX (z : Byte) : Statement (.adcZpX z) :=
  of_byte .adcZpX z ⟨0x75, .adc, .zeroPageX, 2, 4, .withByte .adcZpX⟩ rfl rfl rfl rfl rfl rfl rfl
theorem adcAbs (w : Word) : Statement (.adcAbs w) :=
  of_word .adcAbs w ⟨0x6D, .adc, .absolute, 3, 4, .withWord .adcAbs⟩ rfl rfl rfl rfl rfl rfl rfl
theorem adcAbsX (w : Word) : Statement (.adcAbsX w) :=
  of_word .adcAbsX w ⟨0x7D, .adc, .absoluteX, 3, 4, .withWord .adcAbsX⟩ rfl rfl rfl rfl rfl rfl rfl
theorem adcAbsY (w : Word) : Statement (.adcAbsY w) :=
  of_word .adcAbsY w ⟨0x79, .adc, .absoluteY, 3, 4, .withWord .adcAbsY⟩ rfl rfl rfl rfl rfl rfl rfl
theorem adcIndX (z : Byte) : Statement (.adcIndX z) :=
  of_byte .adcIndX z ⟨0x61, .adc, .indirectX, 2, 6, .withByte .adcIndX⟩ rfl rfl rfl rfl rfl rfl rfl
theorem adcIndY (z : Byte) : Statement (.adcIndY z) :=
  of_byte .adcIndY z ⟨0x71, .adc, .indirectY, 2, 5, .withByte .adcIndY⟩ rfl rfl rfl rfl rfl rfl rfl
theorem sbcImm (v : Byte) : Statement (.sbcImm v) :=
  of_byte .sbcImm v ⟨0xE9, .sbc, .immediate, 2, 2, .withByte .sbcImm⟩ rfl rfl rfl rfl rfl rfl rfl
theorem sbcZp (z : Byte) : Statement (.sbcZp z) :=
  of_byte .sbcZp z ⟨0xE5, .sbc, .zeroPage, 2, 3, .withByte .sbcZp⟩ rfl rfl rfl rfl rfl rfl rfl
theorem sbcZpX (z : Byte) : Statement (.sbcZpX z) :=
  of_byte .sbcZpX z ⟨0xF5, .sbc, .zeroPageX, 2, 4, .withByte .sbcZpX⟩ rfl rfl rfl rfl rfl rfl rfl
theorem sbcAbs (w : Word) : Statement (.sbcAbs w) :=
  of_word .sbcAbs w ⟨0xED, .sbc, .absolute, 3, 4, .withWord .sbcAbs⟩ rfl rfl rfl rfl rfl rfl rfl
theorem sbcAbsX (w : Word) : Statement (.sbcAbsX w) :=
  of_word .sbcAbsX w ⟨0xFD, .sbc, .absoluteX, 3, 4, .withWord .sbcAbsX⟩ rfl rfl rfl rfl rfl rfl rfl
theorem sbcAbsY (w : Word) : Statement (.sbcAbsY w) :=
  of_word .sbcAbsY w ⟨0xF9, .sbc, .absoluteY, 3, 4, .withWord .sbcAbsY⟩ rfl rfl rfl rfl rfl rfl rfl
theorem sbcIndX (z : Byte) : Statement (.sbcIndX z) :=
  of_byte .sbcIndX z ⟨0xE1, .sbc, .indirectX, 2, 6, .withByte .sbcIndX⟩ rfl rfl rfl rfl rfl rfl rfl
theorem sbcIndY (z : Byte) : Statement (.sbcIndY z) :=
  of_byte .sbcIndY z ⟨0xF1, .sbc, .indirectY, 2, 5, .withByte .sbcIndY⟩ rfl rfl rfl rfl rfl rfl rfl
theorem cmpImm (v : Byte) : Statement (.cmpImm v) :=
  of_byte .cmpImm v ⟨0xC9, .cmp, .immediate, 2, 2, .withByte .cmpImm⟩ rfl rfl rfl rfl rfl rfl rfl
theorem cmpZp (z : Byte) : Statement (.cmpZp z) :=
  of_byte .cmpZp z ⟨0xC5, .cmp, .zeroPage, 2, 3, .withByte .cmpZp⟩ rfl rfl rfl rfl rfl rfl rfl
theorem cmpZpX (z : Byte) : Statement (.cmpZpX z) :=
  of_byte .cmpZpX z ⟨0xD5, .cmp, .zeroPageX, 2, 4, .withByte .cmpZpX⟩ rfl rfl rfl rfl rfl rfl rfl
theorem cmpAbs (w : Word) : Statement (.cmpAbs w) :=
  of_word .cmpAbs w ⟨0xCD, .cmp, .absolute, 3, 4, .withWord .cmpAbs⟩ rfl rfl rfl rfl rfl rfl rfl
theorem cmpAbsX (w : Word) : Statement (.cmpAbsX w) :=
  of_word .cmpAbsX w ⟨0xDD, .cmp, .absoluteX, 3, 4, .withWord .cmpAbsX⟩ rfl rfl rfl rfl rfl rfl rfl
theorem cmpAbsY (w : Word) : Statement (.cmpAbsY w) :=
  of_word .cmpAbsY w ⟨0xD9, .cmp, .absoluteY, 3, 4, .withWord .cmpAbsY⟩ rfl rfl rfl rfl rfl rfl rfl
theorem cmpIndX (z : Byte) : Statement (.cmpIndX z) :=
  of_byte .cmpIndX z ⟨0xC1, .cmp, .indirectX, 2, 6, .withByte .cmpIndX⟩ rfl rfl rfl rfl rfl rfl rfl
theorem cmpIndY (z : Byte) : Statement (.cmpIndY z) :=
  of_byte .cmpIndY z ⟨0xD1, .cmp, .indirectY, 2, 5, .withByte .cmpIndY⟩ rfl rfl rfl rfl rfl rfl rfl
theorem cpxImm (v : Byte) : Statement (.cpxImm v) :=
  of_byte .cpxImm v ⟨0xE0, .cpx, .immediate, 2, 2, .withByte .cpxImm⟩ rfl rfl rfl rfl rfl rfl rfl
theorem cpxZp (z : Byte) : Statement (.cpxZp z) :=
  of_byte .cpxZp z ⟨0xE4, .cpx, .zeroPage, 2, 3, .withByte .cpxZp⟩ rfl rfl rfl rfl rfl rfl rfl
theorem cpxAbs (w : Word) : Statement (.cpxAbs w) :=
  of_word .cpxAbs w ⟨0xEC, .cpx, .absolute, 3, 4, .withWord .cpxAbs⟩ rfl rfl rfl rfl rfl rfl rfl
theorem cpyImm (v : Byte) : Statement (.cpyImm v) :=
  of_byte .cpyImm v ⟨0xC0, .cpy, .immediate, 2, 2, .withByte .cpyImm⟩ rfl rfl rfl rfl rfl rfl rfl
theorem cpyZp (z : Byte) : Statement (.cpyZp z) :=
  of_byte .cpyZp z ⟨0xC4, .cpy, .zeroPage, 2, 3, .withByte .cpyZp⟩ rfl rfl rfl rfl rfl rfl rfl
theorem cpyAbs (w : Word) : Statement (.cpyAbs w) :=
  of_word .cpyAbs w ⟨0xCC, .cpy, .absolute, 3, 4, .withWord .cpyAbs⟩ rfl rfl rfl rfl rfl rfl rfl
theorem incZp (z : Byte) : Statement (.incZp z) :=
  of_byte .incZp z ⟨0xE6, .inc, .zeroPage, 2, 5, .withByte .incZp⟩ rfl rfl rfl rfl rfl rfl rfl
theorem incZpX (z : Byte) : Statement (.incZpX z) :=
  of_byte .incZpX z ⟨0xF6, .inc, .zeroPageX, 2, 6, .withByte .incZpX⟩ rfl rfl rfl rfl rfl rfl rfl
theorem incAbs (w : Word) : Statement (.incAbs w) :=
  of_word .incAbs w ⟨0xEE, .inc, .absolute, 3, 6, .withWord .incAbs⟩ rfl rfl rfl rfl rfl rfl rfl
theorem incAbsX (w : Word) : Statement (.incAbsX w) :=
  of_word .incAbsX w ⟨0xFE, .inc, .absoluteX, 3, 7, .withWord .incAbsX⟩ rfl rfl rfl rfl rfl rfl rfl
theorem decZp (z : Byte) : Statement (.decZp z) :=
  of_byte .decZp z ⟨0xC6, .dec, .zeroPage, 2, 5, .withByte .decZp⟩ rfl rfl rfl rfl rfl rfl rfl
theorem decZpX (z : Byte) : Statement (.decZpX z) :=
  of_byte .decZpX z ⟨0xD6, .dec, .zeroPageX, 2, 6, .withByte .decZpX⟩ rfl rfl rfl rfl rfl rfl rfl
theorem decAbs (w : Word) : Statement (.decAbs w) :=
  of_word .decAbs w ⟨0xCE, .dec, .absolute, 3, 6, .withWord .decAbs⟩ rfl rfl rfl rfl rfl rfl rfl
theorem decAbsX (w : Word) : Statement (.decAbsX w) :=
  of_word .decAbsX w ⟨0xDE, .dec, .absoluteX, 3, 7, .withWord .decAbsX⟩ rfl rfl rfl rfl rfl rfl rfl
theorem inx : Statement .inx :=
  of_bare _ ⟨0xE8, .inx, .implied, 1, 2, .bare .inx⟩ rfl rfl rfl rfl rfl rfl rfl
theorem iny : Statement .iny :=
  of_bare _ ⟨0xC8, .iny, .implied, 1, 2, .bare .iny⟩ rfl rfl rfl rfl rfl rfl rfl
theorem dex : Statement .dex :=
  of_bare _ ⟨0xCA, .dex, .implied, 1, 2, .bare .dex⟩ rfl rfl rfl rfl rfl rfl rfl
theorem dey : Statement .dey :=
  of_bare _ ⟨0x88, .dey, .implied, 1, 2, .bare .dey⟩ rfl rfl rfl rfl rfl rfl rfl
theorem eorImm (v : Byte) : Statement (.eorImm v) :=
  of_byte .eorImm v ⟨0x49, .eor, .immediate, 2, 2, .withByte .eorImm⟩ rfl rfl rfl rfl rfl rfl rfl
theorem eorZp (z : Byte) : Statement (.eorZp z) :=
  of_byte .eorZp z ⟨0x45, .eor, .zeroPage, 2, 3, .withByte .eorZp⟩ rfl rfl rfl rfl rfl rfl rfl
theorem eorZpX (z : Byte) : Statement (.eorZpX z) :=
  of_byte .eorZpX z ⟨0x55, .eor, .zeroPageX, 2, 4, .withByte .eorZpX⟩ rfl rfl rfl rfl rfl rfl rfl
theorem eorAbs (w : Word) : Statement (.eorAbs w) :=
  of_word .eorAbs w ⟨0x4D, .eor, .absolute, 3, 4, .withWord .eorAbs⟩ rfl rfl rfl rfl rfl rfl rfl
theorem eorAbsX (w : Word) : Statement (.eorAbsX w) :=
  of_word .eorAbsX w ⟨0x5D, .eor, .absoluteX, 3, 4, .withWord .eorAbsX⟩ rfl rfl rfl rfl rfl rfl rfl
theorem eorAbsY (w : Word) : Statement (.eorAbsY w) :=
  of_word .eorAbsY w ⟨0x59, .eor, .absoluteY, 3, 4, .withWord .eorAbsY⟩ rfl rfl rfl rfl rfl rfl rfl
theorem eorIndX (z : Byte) : Statement (.eorIndX z) :=
  of_byte .eorIndX z ⟨0x41, .eor, .indirectX, 2, 6, .withByte .eorIndX⟩ rfl rfl rfl rfl rfl rfl rfl
theorem eorIndY (z : Byte) : Statement (.eorIndY z) :=
  of_byte .eorIndY z ⟨0x51, .eor, .indirectY, 2, 5, .withByte .eorIndY⟩ rfl rfl rfl rfl rfl rfl rfl
theorem andImm (v : Byte) : Statement (.andImm v) :=
  of_byte .andImm v ⟨0x29, .and, .immediate, 2, 2, .withByte .andImm⟩ rfl rfl rfl rfl rfl rfl rfl
theorem andZp (z : Byte) : Statement (.andZp z) :=
  of_byte .andZp z ⟨0x25, .and, .zeroPage, 2, 3, .withByte .andZp⟩ rfl rfl rfl rfl rfl rfl rfl
theorem andZpX (z : Byte) : Statement (.andZpX z) :=
  of_byte .andZpX z ⟨0x35, .and, .zeroPageX, 2, 4, .withByte .andZpX⟩ rfl rfl rfl rfl rfl rfl rfl
theorem andAbs (w : Word) : Statement (.andAbs w) :=
  of_word .andAbs w ⟨0x2D, .and, .absolute, 3, 4, .withWord .andAbs⟩ rfl rfl rfl rfl rfl rfl rfl
theorem andAbsX (w : Word) : Statement (.andAbsX w) :=
  of_word .andAbsX w ⟨0x3D, .and, .absoluteX, 3, 4, .withWord .andAbsX⟩ rfl rfl rfl rfl rfl rfl rfl
theorem andAbsY (w : Word) : Statement (.andAbsY w) :=
  of_word .andAbsY w ⟨0x39, .and, .absoluteY, 3, 4, .withWord .andAbsY⟩ rfl rfl rfl rfl rfl rfl rfl
theorem andIndX (z : Byte) : Statement (.andIndX z) :=
  of_byte .andIndX z ⟨0x21, .and, .indirectX, 2, 6, .withByte .andIndX⟩ rfl rfl rfl rfl rfl rfl rfl
theorem andIndY (z : Byte) : Statement (.andIndY z) :=
  of_byte .andIndY z ⟨0x31, .and, .indirectY, 2, 5, .withByte .andIndY⟩ rfl rfl rfl rfl rfl rfl rfl
theorem oraImm (v : Byte) : Statement (.oraImm v) :=
  of_byte .oraImm v ⟨0x09, .ora, .immediate, 2, 2, .withByte .oraImm⟩ rfl rfl rfl rfl rfl rfl rfl
theorem oraZp (z : Byte) : Statement (.oraZp z) :=
  of_byte .oraZp z ⟨0x05, .ora, .zeroPage, 2, 3, .withByte .oraZp⟩ rfl rfl rfl rfl rfl rfl rfl
theorem oraZpX (z : Byte) : Statement (.oraZpX z) :=
  of_byte .oraZpX z ⟨0x15, .ora, .zeroPageX, 2, 4, .withByte .oraZpX⟩ rfl rfl rfl rfl rfl rfl rfl
theorem oraAbs (w : Word) : Statement (.oraAbs w) :=
  of_word .oraAbs w ⟨0x0D, .ora, .absolute, 3, 4, .withWord .oraAbs⟩ rfl rfl rfl rfl rfl rfl rfl
theorem oraAbsX (w : Word) : Statement (.oraAbsX w) :=
  of_word .oraAbsX w ⟨0x1D, .ora, .absoluteX, 3, 4, .withWord .oraAbsX⟩ rfl rfl rfl rfl rfl rfl rfl
theorem oraAbsY (w : Word) : Statement (.oraAbsY w) :=
  of_word .oraAbsY w ⟨0x19, .ora, .absoluteY, 3, 4, .withWord .oraAbsY⟩ rfl rfl rfl rfl rfl rfl rfl
theorem oraIndX (z : Byte) : Statement (.oraIndX z) :=
  of_byte .oraIndX z ⟨0x01, .ora, .indirectX, 2, 6, .withByte .oraIndX⟩ rfl rfl rfl rfl rfl rfl rfl
theorem oraIndY (z : Byte) : Statement (.oraIndY z) :=
  of_byte .oraIndY z ⟨0x11, .ora, .indirectY, 2, 5, .withByte .oraIndY⟩ rfl rfl rfl rfl rfl rfl rfl
theorem bitZp (z : Byte) : Statement (.bitZp z) :=
  of_byte .bitZp z ⟨0x24, .bit, .zeroPage, 2, 3, .withByte .bitZp⟩ rfl rfl rfl rfl rfl rfl rfl
theorem bitAbs (w : Word) : Statement (.bitAbs w) :=
  of_word .bitAbs w ⟨0x2C, .bit, .absolute, 3, 4, .withWord .bitAbs⟩ rfl rfl rfl rfl rfl rfl rfl
theorem lsrA : Statement .lsrA :=
  of_bare _ ⟨0x4A, .lsr, .accumulator, 1, 2, .bare .lsrA⟩ rfl rfl rfl rfl rfl rfl rfl
theorem lsrZp (z : Byte) : Statement (.lsrZp z) :=
  of_byte .lsrZp z ⟨0x46, .lsr, .zeroPage, 2, 5, .withByte .lsrZp⟩ rfl rfl rfl rfl rfl rfl rfl
theorem lsrZpX (z : Byte) : Statement (.lsrZpX z) :=
  of_byte .lsrZpX z ⟨0x56, .lsr, .zeroPageX, 2, 6, .withByte .lsrZpX⟩ rfl rfl rfl rfl rfl rfl rfl
theorem lsrAbs (w : Word) : Statement (.lsrAbs w) :=
  of_word .lsrAbs w ⟨0x4E, .lsr, .absolute, 3, 6, .withWord .lsrAbs⟩ rfl rfl rfl rfl rfl rfl rfl
theorem lsrAbsX (w : Word) : Statement (.lsrAbsX w) :=
  of_word .lsrAbsX w ⟨0x5E, .lsr, .absoluteX, 3, 7, .withWord .lsrAbsX⟩ rfl rfl rfl rfl rfl rfl rfl
theorem aslA : Statement .aslA :=
  of_bare _ ⟨0x0A, .asl, .accumulator, 1, 2, .bare .aslA⟩ rfl rfl rfl rfl rfl rfl rfl
theorem aslZp (z : Byte) : Statement (.aslZp z) :=
  of_byte .aslZp z ⟨0x06, .asl, .zeroPage, 2, 5, .withByte .aslZp⟩ rfl rfl rfl rfl rfl rfl rfl
theorem aslZpX (z : Byte) : Statement (.aslZpX z) :=
  of_byte .aslZpX z ⟨0x16, .asl, .zeroPageX, 2, 6, .withByte .aslZpX⟩ rfl rfl rfl rfl rfl rfl rfl
theorem aslAbs (w : Word) : Statement (.aslAbs w) :=
  of_word .aslAbs w ⟨0x0E, .asl, .absolute, 3, 6, .withWord .aslAbs⟩ rfl rfl rfl rfl rfl rfl rfl
theorem aslAbsX (w : Word) : Statement (.aslAbsX w) :=
  of_word .aslAbsX w ⟨0x1E, .asl, .absoluteX, 3, 7, .withWord .aslAbsX⟩ rfl rfl rfl rfl rfl rfl rfl
theorem rolA : Statement .rolA :=
  of_bare _ ⟨0x2A, .rol, .accumulator, 1, 2, .bare .rolA⟩ rfl rfl rfl rfl rfl rfl rfl
theorem rolZp (z : Byte) : Statement (.rolZp z) :=
  of_byte .rolZp z ⟨0x26, .rol, .zeroPage, 2, 5, .withByte .rolZp⟩ rfl rfl rfl rfl rfl rfl rfl
theorem rolZpX (z : Byte) : Statement (.rolZpX z) :=
  of_byte .rolZpX z ⟨0x36, .rol, .zeroPageX, 2, 6, .withByte .rolZpX⟩ rfl rfl rfl rfl rfl rfl rfl
theorem rolAbs (w : Word) : Statement (.rolAbs w) :=
  of_word .rolAbs w ⟨0x2E, .rol, .absolute, 3, 6, .withWord .rolAbs⟩ rfl rfl rfl rfl rfl rfl rfl
theorem rolAbsX (w : Word) : Statement (.rolAbsX w) :=
  of_word .rolAbsX w ⟨0x3E, .rol, .absoluteX, 3, 7, .withWord .rolAbsX⟩ rfl rfl rfl rfl rfl rfl rfl
theorem rorA : Statement .rorA :=
  of_bare _ ⟨0x6A, .ror, .accumulator, 1, 2, .bare .rorA⟩ rfl rfl rfl rfl rfl rfl rfl
theorem rorZp (z : Byte) : Statement (.rorZp z) :=
  of_byte .rorZp z ⟨0x66, .ror, .zeroPage, 2, 5, .withByte .rorZp⟩ rfl rfl rfl rfl rfl rfl rfl
theorem rorZpX (z : Byte) : Statement (.rorZpX z) :=
  of_byte .rorZpX z ⟨0x76, .ror, .zeroPageX, 2, 6, .withByte .rorZpX⟩ rfl rfl rfl rfl rfl rfl rfl
theorem rorAbs (w : Word) : Statement (.rorAbs w) :=
  of_word .rorAbs w ⟨0x6E, .ror, .absolute, 3, 6, .withWord .rorAbs⟩ rfl rfl rfl rfl rfl rfl rfl
theorem rorAbsX (w : Word) : Statement (.rorAbsX w) :=
  of_word .rorAbsX w ⟨0x7E, .ror, .absoluteX, 3, 7, .withWord .rorAbsX⟩ rfl rfl rfl rfl rfl rfl rfl
theorem ldaImm (v : Byte) : Statement (.ldaImm v) :=
  of_byte .ldaImm v ⟨0xA9, .lda, .immediate, 2, 2, .withByte .ldaImm⟩ rfl rfl rfl rfl rfl rfl rfl
theorem ldaZp (z : Byte) : Statement (.ldaZp z) :=
  of_byte .ldaZp z ⟨0xA5, .lda, .zeroPage, 2, 3, .withByte .ldaZp⟩ rfl rfl rfl rfl rfl rfl rfl
theorem ldaZpX (z : Byte) : Statement (.ldaZpX z) :=
  of_byte .ldaZpX z ⟨0xB5, .lda, .zeroPageX, 2, 4, .withByte .ldaZpX⟩ rfl rfl rfl rfl rfl rfl rfl
theorem ldaAbs (w : Word) : Statement (.ldaAbs w) :=
  of_word .ldaAbs w ⟨0xAD, .lda, .absolute, 3, 4, .withWord .ldaAbs⟩ rfl rfl rfl rfl rfl rfl rfl
theorem ldaAbsX (w : Word) : Statement (.ldaAbsX w) :=
  of_word .ldaAbsX w ⟨0xBD, .lda, .absoluteX, 3, 4, .withWord .ldaAbsX⟩ rfl rfl rfl rfl rfl rfl rfl
theorem ldaAbsY (w : Word) : Statement (.ldaAbsY w) :=
  of_word .ldaAbsY w ⟨0xB9, .lda, .absoluteY, 3, 4, .withWord .ldaAbsY⟩ rfl rfl rfl rfl rfl rfl rfl
theorem ldaIndX (z : Byte) : Statement (.ldaIndX z) :=
  of_byte .ldaIndX z ⟨0xA1, .lda, .indirectX, 2, 6, .withByte .ldaIndX⟩ rfl rfl rfl rfl rfl rfl rfl
theorem ldaIndY (z : Byte) : Statement (.ldaIndY z) :=
  of_byte .ldaIndY z ⟨0xB1, .lda, .indirectY, 2, 5, .withByte .ldaIndY⟩ rfl rfl rfl rfl rfl rfl rfl
theorem ldxImm (v : Byte) : Statement (.ldxImm v) :=
  of_byte .ldxImm v ⟨0xA2, .ldx, .immediate, 2, 2, .withByte .ldxImm⟩ rfl rfl rfl rfl rfl rfl rfl
theorem ldxZp (z : Byte) : Statement (.ldxZp z) :=
  of_byte .ldxZp z ⟨0xA6, .ldx, .zeroPage, 2, 3, .withByte .ldxZp⟩ rfl rfl rfl rfl rfl rfl rfl
theorem ldxZpY (z : Byte) : Statement (.ldxZpY z) :=
  of_byte .ldxZpY z ⟨0xB6, .ldx, .zeroPageY, 2, 4, .withByte .ldxZpY⟩ rfl rfl rfl rfl rfl rfl rfl
theorem ldxAbs (w : Word) : Statement (.ldxAbs w) :=
  of_word .ldxAbs w ⟨0xAE, .ldx, .absolute, 3, 4, .withWord .ldxAbs⟩ rfl rfl rfl rfl rfl rfl rfl
theorem ldxAbsY (w : Word) : Statement (.ldxAbsY w) :=
  of_word .ldxAbsY w ⟨0xBE, .ldx, .absoluteY, 3, 4, .withWord .ldxAbsY⟩ rfl rfl rfl rfl rfl rfl rfl
theorem ldyImm (v : Byte) : Statement (.ldyImm v) :=
  of_byte .ldyImm v ⟨0xA0, .ldy, .immediate, 2, 2, .withByte .ldyImm⟩ rfl rfl rfl rfl rfl rfl rfl
theorem ldyZp (z : Byte) : Statement (.ldyZp z) :=
  of_byte .ldyZp z ⟨0xA4, .ldy, .zeroPage, 2, 3, .withByte .ldyZp⟩ rfl rfl rfl rfl rfl rfl rfl
theorem ldyZpX (z : Byte) : Statement (.ldyZpX z) :=
  of_byte .ldyZpX z ⟨0xB4, .ldy, .zeroPageX, 2, 4, .withByte .ldyZpX⟩ rfl rfl rfl rfl rfl rfl rfl
theorem ldyAbs (w : Word) : Statement (.ldyAbs w) :=
  of_word .ldyAbs w ⟨0xAC, .ldy, .absolute, 3, 4, .withWord .ldyAbs⟩ rfl rfl rfl rfl rfl rfl rfl
theorem ldyAbsX (w : Word) : Statement (.ldyAbsX w) :=
  of_word .ldyAbsX w ⟨0xBC, .ldy, .absoluteX, 3, 4, .withWord .ldyAbsX⟩ rfl rfl rfl rfl rfl rfl rfl
theorem staZp (z : Byte) : Statement (.staZp z) :=
  of_byte .staZp z ⟨0x85, .sta, .zeroPage, 2, 3, .withByte .staZp⟩ rfl rfl rfl rfl rfl rfl rfl
theorem staZpX (z : Byte) : Statement (.staZpX z) :=
  of_byte .staZpX z ⟨0x95, .sta, .zeroPageX, 2, 4, .withByte .staZpX⟩ rfl rfl rfl rfl rfl rfl rfl
theorem staAbs (w : Word) : Statement (.staAbs w) :=
  of_word .staAbs w ⟨0x8D, .sta, .absolute, 3, 4, .withWord .staAbs⟩ rfl rfl rfl rfl rfl rfl rfl
theorem staAbsX (w : Word) : Statement (.staAbsX w) :=
  of_word .staAbsX w ⟨0x9D, .sta, .absoluteX, 3, 5, .withWord .staAbsX⟩ rfl rfl rfl rfl rfl rfl rfl
theorem staAbsY (w : Word) : Statement (.staAbsY w) :=
  of_word .staAbsY w ⟨0x99, .sta, .absoluteY, 3, 5, .withWord .staAbsY⟩ rfl rfl rfl rfl rfl rfl rfl
theorem staIndX (z : Byte) : Statement (.staIndX z) :=
  of_byte .staIndX z ⟨0x81, .sta, .indirectX, 2, 6, .withByte .staIndX⟩ rfl rfl rfl rfl rfl rfl rfl
theorem staIndY (z : Byte) : Statement (.staIndY z) :=
  of_byte .staIndY z ⟨0x91, .sta, .indirectY, 2, 6, .withByte .staIndY⟩ rfl rfl rfl rfl rfl rfl rfl
theorem stxZp (z : Byte) : Statement (.stxZp z) :=
  of_byte .stxZp z ⟨0x86, .stx, .zeroPage, 2, 3, .withByte .stxZp⟩ rfl rfl rfl rfl rfl rfl rfl
theorem stxZpY (z : Byte) : Statement (.stxZpY z) :=
  of_byte .stxZpY z ⟨0x96, .stx, .zeroPageY, 2, 4, .withByte .stxZpY⟩ rfl rfl rfl rfl rfl rfl rfl
theorem stxAbs (w : Word) : Statement (.stxAbs w) :=
  of_word .stxAbs w ⟨0x8E, .stx, .absolute, 3, 4, .withWord .stxAbs⟩ rfl rfl rfl rfl rfl rfl rfl
theorem styZp (z : Byte) : Statement (.styZp z) :=
  of_byte .styZp z ⟨0x84, .sty, .zeroPage, 2, 3, .withByte .styZp⟩ rfl rfl rfl rfl rfl rfl rfl
theorem styZpX (z : Byte) : Statement (.styZpX z) :=
  of_byte .styZpX z ⟨0x94, .sty, .zeroPageX, 2, 4, .withByte .styZpX⟩ rfl rfl rfl rfl rfl rfl rfl
theorem styAbs (w : Word) : Statement (.styAbs w) :=
  of_word .styAbs w ⟨0x8C, .sty, .absolute, 3, 4, .withWord .styAbs⟩ rfl rfl rfl rfl rfl rfl rfl
theorem tax : Statement .tax :=
  of_bare _ ⟨0xAA, .tax, .implied, 1, 2, .bare .tax⟩ rfl rfl rfl rfl rfl rfl rfl
theorem tay : Statement .tay :=
  of_bare _ ⟨0xA8, .tay, .implied, 1, 2, .bare .tay⟩ rfl rfl rfl rfl rfl rfl rfl
theorem txa : Statement .txa :=
  of_bare _ ⟨0x8A, .txa, .implied, 1, 2, .bare .txa⟩ rfl rfl rfl rfl rfl rfl rfl
theorem tya : Statement .tya :=
  of_bare _ ⟨0x98, .tya, .implied, 1, 2, .bare .tya⟩ rfl rfl rfl rfl rfl rfl rfl
theorem tsx : Statement .tsx :=
  of_bare _ ⟨0xBA, .tsx, .implied, 1, 2, .bare .tsx⟩ rfl rfl rfl rfl rfl rfl rfl
theorem txs : Statement .txs :=
  of_bare _ ⟨0x9A, .txs, .implied, 1, 2, .bare .txs⟩ rfl rfl rfl rfl rfl rfl rfl
theorem pha : Statement .pha :=
  of_bare _ ⟨0x48, .pha, .implied, 1, 3, .bare .pha⟩ rfl rfl rfl rfl rfl rfl rfl
theorem php : Statement .php :=
  of_bare _ ⟨0x08, .php, .implied, 1, 3, .bare .php⟩ rfl rfl rfl rfl rfl rfl rfl
theorem pla : Statement .pla :=
  of_bare _ ⟨0x68, .pla, .implied, 1, 4, .bare .pla⟩ rfl rfl rfl rfl rfl rfl rfl
theorem plp : Statement .plp :=
  of_bare _ ⟨0x28, .plp, .implied, 1, 4, .bare .plp⟩ rfl rfl rfl rfl rfl rfl rfl
theorem clc : Statement .clc :=
  of_bare _ ⟨0x18, .clc, .implied, 1, 2, .bare .clc⟩ rfl rfl rfl rfl rfl rfl rfl
theorem sec : Statement .sec :=
  of_bare _ ⟨0x38, .sec, .implied, 1, 2, .bare .sec⟩ rfl rfl rfl rfl rfl rfl rfl
theorem cli : Statement .cli :=
  of_bare _ ⟨0x58, .cli, .implied, 1, 2, .bare .cli⟩ rfl rfl rfl rfl rfl rfl rfl
theorem sei : Statement .sei :=
  of_bare _ ⟨0x78, .sei, .implied, 1, 2, .bare .sei⟩ rfl rfl rfl rfl rfl rfl rfl
theorem cld : Statement .cld :=
  of_bare _ ⟨0xD8, .cld, .implied, 1, 2, .bare .cld⟩ rfl rfl rfl rfl rfl rfl rfl
theorem sed : Statement .sed :=
  of_bare _ ⟨0xF8, .sed, .implied, 1, 2, .bare .sed⟩ rfl rfl rfl rfl rfl rfl rfl
theorem clv : Statement .clv :=
  of_bare _ ⟨0xB8, .clv, .implied, 1, 2, .bare .clv⟩ rfl rfl rfl rfl rfl rfl rfl
theorem bpl (off : Byte) : Statement (.bpl off) :=
  of_byte .bpl off ⟨0x10, .bpl, .relative, 2, 2, .withByte .bpl⟩ rfl rfl rfl rfl rfl rfl rfl
theorem bmi (off : Byte) : Statement (.bmi off) :=
  of_byte .bmi off ⟨0x30, .bmi, .relative, 2, 2, .withByte .bmi⟩ rfl rfl rfl rfl rfl rfl rfl
theorem bvc (off : Byte) : Statement (.bvc off) :=
  of_byte .bvc off ⟨0x50, .bvc, .relative, 2, 2, .withByte .bvc⟩ rfl rfl rfl rfl rfl rfl rfl
theorem bvs (off : Byte) : Statement (.bvs off) :=
  of_byte .bvs off ⟨0x70, .bvs, .relative, 2, 2, .withByte .bvs⟩ rfl rfl rfl rfl rfl rfl rfl
theorem bcc (off : Byte) : Statement (.bcc off) :=
  of_byte .bcc off ⟨0x90, .bcc, .relative, 2, 2, .withByte .bcc⟩ rfl rfl rfl rfl rfl rfl rfl
theorem bcs (off : Byte) : Statement (.bcs off) :=
  of_byte .bcs off ⟨0xB0, .bcs, .relative, 2, 2, .withByte .bcs⟩ rfl rfl rfl rfl rfl rfl rfl
theorem bne (off : Byte) : Statement (.bne off) :=
  of_byte .bne off ⟨0xD0, .bne, .relative, 2, 2, .withByte .bne⟩ rfl rfl rfl rfl rfl rfl rfl
theorem beq (off : Byte) : Statement (.beq off) :=
  of_byte .beq off ⟨0xF0, .beq, .relative, 2, 2, .withByte .beq⟩ rfl rfl rfl rfl rfl rfl rfl
theorem jmpAbs (w : Word) : Statement (.jmpAbs w) :=
  of_word .jmpAbs w ⟨0x4C, .jmp, .absolute, 3, 3, .withWord .jmpAbs⟩ rfl rfl rfl rfl rfl rfl rfl
theorem jmpInd (w : Word) : Statement (.jmpInd w) :=
  of_word .jmpInd w ⟨0x6C, .jmp, .indirect, 3, 5, .withWord .jmpInd⟩ rfl rfl rfl rfl rfl rfl rfl
theorem jsr (w : Word) : Statement (.jsr w) :=
  of_word .jsr w ⟨0x20, .jsr, .absolute, 3, 6, .withWord .jsr⟩ rfl rfl rfl rfl rfl rfl rfl
theorem rts : Statement .rts :=
  of_bare _ ⟨0x60, .rts, .implied, 1, 6, .bare .rts⟩ rfl rfl rfl rfl rfl rfl rfl
theorem brk : Statement .brk :=
  of_bare _ ⟨0x00, .brk, .implied, 1, 7, .bare .brk⟩ rfl rfl rfl rfl rfl rfl rfl
theorem rti : Statement .rti :=
  of_bare _ ⟨0x40, .rti, .implied, 1, 6, .bare .rti⟩ rfl rfl rfl rfl rfl rfl rfl
theorem nop : Statement .nop :=
  of_bare _ ⟨0xEA, .nop, .implied, 1, 2, .bare .nop⟩ rfl rfl rfl rfl rfl rfl rfl

end Sys2Proof.Laws.RowOfInstr

namespace Sys2Proof

/-- Every instruction has its row. -/
theorem row_of_instr (i : Instr) : Laws.RowOfInstr.Statement i := by
  cases i with
  | adcImm v => exact Laws.RowOfInstr.adcImm v
  | adcZp z => exact Laws.RowOfInstr.adcZp z
  | adcZpX z => exact Laws.RowOfInstr.adcZpX z
  | adcAbs w => exact Laws.RowOfInstr.adcAbs w
  | adcAbsX w => exact Laws.RowOfInstr.adcAbsX w
  | adcAbsY w => exact Laws.RowOfInstr.adcAbsY w
  | adcIndX z => exact Laws.RowOfInstr.adcIndX z
  | adcIndY z => exact Laws.RowOfInstr.adcIndY z
  | sbcImm v => exact Laws.RowOfInstr.sbcImm v
  | sbcZp z => exact Laws.RowOfInstr.sbcZp z
  | sbcZpX z => exact Laws.RowOfInstr.sbcZpX z
  | sbcAbs w => exact Laws.RowOfInstr.sbcAbs w
  | sbcAbsX w => exact Laws.RowOfInstr.sbcAbsX w
  | sbcAbsY w => exact Laws.RowOfInstr.sbcAbsY w
  | sbcIndX z => exact Laws.RowOfInstr.sbcIndX z
  | sbcIndY z => exact Laws.RowOfInstr.sbcIndY z
  | cmpImm v => exact Laws.RowOfInstr.cmpImm v
  | cmpZp z => exact Laws.RowOfInstr.cmpZp z
  | cmpZpX z => exact Laws.RowOfInstr.cmpZpX z
  | cmpAbs w => exact Laws.RowOfInstr.cmpAbs w
  | cmpAbsX w => exact Laws.RowOfInstr.cmpAbsX w
  | cmpAbsY w => exact Laws.RowOfInstr.cmpAbsY w
  | cmpIndX z => exact Laws.RowOfInstr.cmpIndX z
  | cmpIndY z => exact Laws.RowOfInstr.cmpIndY z
  | cpxImm v => exact Laws.RowOfInstr.cpxImm v
  | cpxZp z => exact Laws.RowOfInstr.cpxZp z
  | cpxAbs w => exact Laws.RowOfInstr.cpxAbs w
  | cpyImm v => exact Laws.RowOfInstr.cpyImm v
  | cpyZp z => exact Laws.RowOfInstr.cpyZp z
  | cpyAbs w => exact Laws.RowOfInstr.cpyAbs w
  | incZp z => exact Laws.RowOfInstr.incZp z
  | incZpX z => exact Laws.RowOfInstr.incZpX z
  | incAbs w => exact Laws.RowOfInstr.incAbs w
  | incAbsX w => exact Laws.RowOfInstr.incAbsX w
  | decZp z => exact Laws.RowOfInstr.decZp z
  | decZpX z => exact Laws.RowOfInstr.decZpX z
  | decAbs w => exact Laws.RowOfInstr.decAbs w
  | decAbsX w => exact Laws.RowOfInstr.decAbsX w
  | inx => exact Laws.RowOfInstr.inx
  | iny => exact Laws.RowOfInstr.iny
  | dex => exact Laws.RowOfInstr.dex
  | dey => exact Laws.RowOfInstr.dey
  | eorImm v => exact Laws.RowOfInstr.eorImm v
  | eorZp z => exact Laws.RowOfInstr.eorZp z
  | eorZpX z => exact Laws.RowOfInstr.eorZpX z
  | eorAbs w => exact Laws.RowOfInstr.eorAbs w
  | eorAbsX w => exact Laws.RowOfInstr.eorAbsX w
  | eorAbsY w => exact Laws.RowOfInstr.eorAbsY w
  | eorIndX z => exact Laws.RowOfInstr.eorIndX z
  | eorIndY z => exact Laws.RowOfInstr.eorIndY z
  | andImm v => exact Laws.RowOfInstr.andImm v
  | andZp z => exact Laws.RowOfInstr.andZp z
  | andZpX z => exact Laws.RowOfInstr.andZpX z
  | andAbs w => exact Laws.RowOfInstr.andAbs w
  | andAbsX w => exact Laws.RowOfInstr.andAbsX w
  | andAbsY w => exact Laws.RowOfInstr.andAbsY w
  | andIndX z => exact Laws.RowOfInstr.andIndX z
  | andIndY z => exact Laws.RowOfInstr.andIndY z
  | oraImm v => exact Laws.RowOfInstr.oraImm v
  | oraZp z => exact Laws.RowOfInstr.oraZp z
  | oraZpX z => exact Laws.RowOfInstr.oraZpX z
  | oraAbs w => exact Laws.RowOfInstr.oraAbs w
  | oraAbsX w => exact Laws.RowOfInstr.oraAbsX w
  | oraAbsY w => exact Laws.RowOfInstr.oraAbsY w
  | oraIndX z => exact Laws.RowOfInstr.oraIndX z
  | oraIndY z => exact Laws.RowOfInstr.oraIndY z
  | bitZp z => exact Laws.RowOfInstr.bitZp z
  | bitAbs w => exact Laws.RowOfInstr.bitAbs w
  | lsrA => exact Laws.RowOfInstr.lsrA
  | lsrZp z => exact Laws.RowOfInstr.lsrZp z
  | lsrZpX z => exact Laws.RowOfInstr.lsrZpX z
  | lsrAbs w => exact Laws.RowOfInstr.lsrAbs w
  | lsrAbsX w => exact Laws.RowOfInstr.lsrAbsX w
  | aslA => exact Laws.RowOfInstr.aslA
  | aslZp z => exact Laws.RowOfInstr.aslZp z
  | aslZpX z => exact Laws.RowOfInstr.aslZpX z
  | aslAbs w => exact Laws.RowOfInstr.aslAbs w
  | aslAbsX w => exact Laws.RowOfInstr.aslAbsX w
  | rolA => exact Laws.RowOfInstr.rolA
  | rolZp z => exact Laws.RowOfInstr.rolZp z
  | rolZpX z => exact Laws.RowOfInstr.rolZpX z
  | rolAbs w => exact Laws.RowOfInstr.rolAbs w
  | rolAbsX w => exact Laws.RowOfInstr.rolAbsX w
  | rorA => exact Laws.RowOfInstr.rorA
  | rorZp z => exact Laws.RowOfInstr.rorZp z
  | rorZpX z => exact Laws.RowOfInstr.rorZpX z
  | rorAbs w => exact Laws.RowOfInstr.rorAbs w
  | rorAbsX w => exact Laws.RowOfInstr.rorAbsX w
  | ldaImm v => exact Laws.RowOfInstr.ldaImm v
  | ldaZp z => exact Laws.RowOfInstr.ldaZp z
  | ldaZpX z => exact Laws.RowOfInstr.ldaZpX z
  | ldaAbs w => exact Laws.RowOfInstr.ldaAbs w
  | ldaAbsX w => exact Laws.RowOfInstr.ldaAbsX w
  | ldaAbsY w => exact Laws.RowOfInstr.ldaAbsY w
  | ldaIndX z => exact Laws.RowOfInstr.ldaIndX z
  | ldaIndY z => exact Laws.RowOfInstr.ldaIndY z
  | ldxImm v => exact Laws.RowOfInstr.ldxImm v
  | ldxZp z => exact Laws.RowOfInstr.ldxZp z
  | ldxZpY z => exact Laws.RowOfInstr.ldxZpY z
  | ldxAbs w => exact Laws.RowOfInstr.ldxAbs w
  | ldxAbsY w => exact Laws.RowOfInstr.ldxAbsY w
  | ldyImm v => exact Laws.RowOfInstr.ldyImm v
  | ldyZp z => exact Laws.RowOfInstr.ldyZp z
  | ldyZpX z => exact Laws.RowOfInstr.ldyZpX z
  | ldyAbs w => exact Laws.RowOfInstr.ldyAbs w
  | ldyAbsX w => exact Laws.RowOfInstr.ldyAbsX w
  | staZp z => exact Laws.RowOfInstr.staZp z
  | staZpX z => exact Laws.RowOfInstr.staZpX z
  | staAbs w => exact Laws.RowOfInstr.staAbs w
  | staAbsX w => exact Laws.RowOfInstr.staAbsX w
  | staAbsY w => exact Laws.RowOfInstr.staAbsY w
  | staIndX z => exact Laws.RowOfInstr.staIndX z
  | staIndY z => exact Laws.RowOfInstr.staIndY z
  | stxZp z => exact Laws.RowOfInstr.stxZp z
  | stxZpY z => exact Laws.RowOfInstr.stxZpY z
  | stxAbs w => exact Laws.RowOfInstr.stxAbs w
  | styZp z => exact Laws.RowOfInstr.styZp z
  | styZpX z => exact Laws.RowOfInstr.styZpX z
  | styAbs w => exact Laws.RowOfInstr.styAbs w
  | tax => exact Laws.RowOfInstr.tax
  | tay => exact Laws.RowOfInstr.tay
  | txa => exact Laws.RowOfInstr.txa
  | tya => exact Laws.RowOfInstr.tya
  | tsx => exact Laws.RowOfInstr.tsx
  | txs => exact Laws.RowOfInstr.txs
  | pha => exact Laws.RowOfInstr.pha
  | php => exact Laws.RowOfInstr.php
  | pla => exact Laws.RowOfInstr.pla
  | plp => exact Laws.RowOfInstr.plp
  | clc => exact Laws.RowOfInstr.clc
  | sec => exact Laws.RowOfInstr.sec
  | cli => exact Laws.RowOfInstr.cli
  | sei => exact Laws.RowOfInstr.sei
  | cld => exact Laws.RowOfInstr.cld
  | sed => exact Laws.RowOfInstr.sed
  | clv => exact Laws.RowOfInstr.clv
  | bpl off => exact Laws.RowOfInstr.bpl off
  | bmi off => exact Laws.RowOfInstr.bmi off
  | bvc off => exact Laws.RowOfInstr.bvc off
  | bvs off => exact Laws.RowOfInstr.bvs off
  | bcc off => exact Laws.RowOfInstr.bcc off
  | bcs off => exact Laws.RowOfInstr.bcs off
  | bne off => exact Laws.RowOfInstr.bne off
  | beq off => exact Laws.RowOfInstr.beq off
  | jmpAbs w => exact Laws.RowOfInstr.jmpAbs w
  | jmpInd w => exact Laws.RowOfInstr.jmpInd w
  | jsr w => exact Laws.RowOfInstr.jsr w
  | rts => exact Laws.RowOfInstr.rts
  | brk => exact Laws.RowOfInstr.brk
  | rti => exact Laws.RowOfInstr.rti
  | nop => exact Laws.RowOfInstr.nop

end Sys2Proof
end

