-- ==== Sys2Proof/Laws/Rows.lean ====
section
/-! SUPPORT. One equation for every instruction: its step is that of its operation, which depends on the mode only
through the operand and the base cycles (R116). A statement about an operation in all its modes starts here. -/

namespace Sys2Proof.Machine

/-- The step of an operation, with any operand and base cycles. -/
def operationStep (op : Operation) (o : Operand) (base : Nat) (s : State) : Host.Outcome State Fault Refusal :=
  match op with
  | .adc => readRow o base crossPenalty adcRegs s
  | .sbc => readRow o base crossPenalty sbcRegs s
  | .cmp => readRow o base crossPenalty cmpRegs s
  | .cpx => readRow o base noPenalty cpxRegs s
  | .cpy => readRow o base noPenalty cpyRegs s
  | .inc => modifyRow o base incByte s
  | .dec => modifyRow o base decByte s
  | .inx => impliedRow base (fun t => t.loadX (t.x + 1)) s
  | .iny => impliedRow base (fun t => t.loadY (t.y + 1)) s
  | .dex => impliedRow base (fun t => t.loadX (t.x - 1)) s
  | .dey => impliedRow base (fun t => t.loadY (t.y - 1)) s
  | .eor => readRow o base crossPenalty eorRegs s
  | .and => readRow o base crossPenalty andRegs s
  | .ora => readRow o base crossPenalty oraRegs s
  | .bit => readRow o base noPenalty bitRegs s
  | .lsr => modifyRow o base lsrByte s
  | .asl => modifyRow o base aslByte s
  | .rol => modifyRow o base rolByte s
  | .ror => modifyRow o base rorByte s
  | .lda => readRow o base crossPenalty (fun m t => t.loadA m) s
  | .ldx => readRow o base crossPenalty (fun m t => t.loadX m) s
  | .ldy => readRow o base crossPenalty (fun m t => t.loadY m) s
  | .sta => storeRow o base s.a s
  | .stx => storeRow o base s.x s
  | .sty => storeRow o base s.y s
  | .tax => impliedRow base (fun t => t.loadX t.a) s
  | .tay => impliedRow base (fun t => t.loadY t.a) s
  | .txa => impliedRow base (fun t => t.loadA t.x) s
  | .tya => impliedRow base (fun t => t.loadA t.y) s
  | .tsx => impliedRow base (fun t => t.loadX t.sp) s
  | .txs => impliedRow base (fun t => t.setSp t.x) s
  | .pha => pushRow base s.a s
  | .php => pushRow base (pushedStatus s.p) s
  | .pla => pullRow base plaRegs s
  | .plp => pullRow base plpRegs s
  | .clc => impliedRow base (fun t => t.setP (clearFlag t.p .c)) s
  | .sec => impliedRow base (fun t => t.setP (setFlag t.p .c)) s
  | .cli => impliedRow base (fun t => t.setP (clearFlag t.p .i)) s
  | .sei => impliedRow base (fun t => t.setP (setFlag t.p .i)) s
  | .cld => impliedRow base (fun t => t.setP (clearFlag t.p .d)) s
  | .sed => impliedRow base (fun t => t.setP (setFlag t.p .d)) s
  | .clv => impliedRow base (fun t => t.setP (clearFlag t.p .v)) s
  | .bpl => (match o with | .relative off => branchRow off (!s.flag .n) s | _ => .refused .illegalOperand)
  | .bmi => (match o with | .relative off => branchRow off (s.flag .n) s | _ => .refused .illegalOperand)
  | .bvc => (match o with | .relative off => branchRow off (!s.flag .v) s | _ => .refused .illegalOperand)
  | .bvs => (match o with | .relative off => branchRow off (s.flag .v) s | _ => .refused .illegalOperand)
  | .bcc => (match o with | .relative off => branchRow off (!s.flag .c) s | _ => .refused .illegalOperand)
  | .bcs => (match o with | .relative off => branchRow off (s.flag .c) s | _ => .refused .illegalOperand)
  | .bne => (match o with | .relative off => branchRow off (!s.flag .z) s | _ => .refused .illegalOperand)
  | .beq => (match o with | .relative off => branchRow off (s.flag .z) s | _ => .refused .illegalOperand)
  | .jmp => jumpRow o base s
  | .jsr => finish s ((operandAddress o s s.bus).andThen fun t b =>
      (pushWord (s.pc + 2) s b).andThen fun s1 b1 => .ok (commit o base 0 (some t.1) s s1) b1)
  | .rts => finish s ((pullWord s s.bus).andThen fun ws b => .ok (commit o base 0 (some (ws.1 + 1)) s ws.2) b)
  | .brk => finish s ((enterTrap (s.pc + 2) s.params.brkVector s s.bus).andThen fun ws b =>
      .ok (commit o base 0 (some ws.1) s ws.2) b)
  | .rti => finish s ((returnFromTrap s s.bus).andThen fun ws b => .ok (commit o base 0 (some ws.1) s ws.2) b)
  | .nop => impliedRow base (fun t => t) s

/-- Every instruction's step is its operation's. -/
theorem exec_eq_operationStep (i : Instr) (s : State) : exec i s = operationStep i.operation i.operand i.base s := by
  cases i <;> rfl

/-- The length of an instruction is that of its mode (R81). -/
theorem length_eq (i : Instr) : i.length = i.operand.length := by
  obtain ⟨r, hr, -, -, -, hl, -⟩ := row_of_instr i
  simp [Instr.length, hr, hl]

/-- Every instruction's operand has a mode of its operation's list (R102). -/
theorem mode_mem_modes (i : Instr) : i.operand.mode ∈ i.operation.modes := by
  cases i <;> simp [Instr.operand, Operand.mode, Instr.operation, Operation.modes]

/-- An operand has as many bytes as its mode takes (R81). -/
theorem operand_bytes_length (o : Operand) : o.bytes.length = o.mode.operandBytes := by
  cases o <;> rfl

/-- The address of a ZeroPage operand is the byte. -/
theorem zext_toNat (b : Byte) : (zext b).toNat = b.toNat := by
  simp only [zext, BitVec.toNat_setWidth]; omega

/-- The target of a branch, as numbers (R94). -/
theorem branchTarget_toNat (pc : Word) (off : Byte) :
    ((branchTarget pc off).toNat : Int) = ((pc.toNat : Int) + 2 + off.toInt) % 65536 := by
  have h1 : (sext off).toInt = off.toInt := BitVec.toInt_signExtend_of_le (by omega)
  have h2 := BitVec.toInt_eq_toNat_cond (x := sext off)
  have h3 := (sext off).isLt
  have h4 := pc.isLt
  have h5 : BitVec.toNat (2 : Word) = 2 := rfl
  simp only [branchTarget, BitVec.toNat_add, h5]
  split at h2 <;> omega

/-- A page cross is a difference of the high bytes (R19). -/
theorem pageCross_eq (a b : Word) : pageCross a b = decide (a.toNat / 256 ≠ b.toNat / 256) := by
  rw [Bool.eq_iff_iff]
  simp only [pageCross, bne_iff_ne, ne_eq, decide_eq_true_eq]
  constructor
  · intro h e; exact h (BitVec.eq_of_toNat_eq (by simpa using e))
  · intro h e; exact h (by simpa using congrArg BitVec.toNat e)

/-- A read instruction whose operand answers. -/
theorem readRow_ok {o : Operand} {base : Nat} {pen : Resolved → Nat} {f : Byte → State → State} {s : State} {r : Resolved} {m : Byte} {b : Bus} (h : readOperand o s s.bus = .ok (r, m) b) :
    readRow o base pen f s = .next ((commit o base (pen r) none s (f m s)).setBus b) := by
  simp [readRow, h, finish]

/-- A read instruction whose operand raises. -/
theorem readRow_raised {o : Operand} {base : Nat} {pen : Resolved → Nat} {f : Byte → State → State} {s : State} {e : Nat} {b : Bus} (h : readOperand o s s.bus = .raised e b) :
    readRow o base pen f s = raisedBy s e b := by
  simp [readRow, h, finish, raisedBy, faultedState]; rfl

/-- What an operand that resolves to an address resolves to. -/
theorem operandAddress_split {o : Operand} {s : State} {a : Word} {c : Bool} {b : Bus} (h : operandAddress o s s.bus = .ok (a, c) b) :
    ∃ r, resolve o s s.bus = .ok r b ∧ r.operand = .address a ∧ r.pageCrossed = c := by
  obtain ⟨r, d, hr, hk⟩ := BusResult.andThen_ok h
  revert hk; cases ho : r.operand <;> intro hk <;> cases hk
  exact ⟨r, hr, ho, rfl⟩

/-- A push whose write is taken. -/
theorem pushRow_ok {base : Nat} {v : Byte} {s : State} {b : Bus} (h : s.bus.write s.stackAddr v = .ok () b) :
    pushRow base v s = .next ((commit .implied base 0 none s (s.setSp (s.sp - 1))).setBus b) := by
  simp only [pushRow, push, h, BusResult.ok_andThen, finish]

/-- A push whose write raises. -/
theorem pushRow_raised {base : Nat} {v : Byte} {s : State} {e : Nat} {b : Bus} (h : s.bus.write s.stackAddr v = .raised e b) :
    pushRow base v s = raisedBy s e b := by
  simp only [pushRow, push, h, finish]; rfl

/-- A push, as the write it makes. -/
theorem push_of {s : State} {b c : Bus} {v : Byte} (h : b.write s.stackAddr v = .ok () c) : push v s b = .ok (s.setSp (s.sp - 1)) c := by
  simp only [push, h, BusResult.ok_andThen]

/-- A pull, as the read it makes. -/
theorem pull_of {s : State} {b c : Bus} {v : Byte} (h : b.read (State.stackAddr { s with sp := s.sp + 1 }) = .ok v c) :
    pull s b = .ok (v, s.setSp (s.sp + 1)) c := by
  have : b.read (s.setSp (s.sp + 1)).stackAddr = .ok v c := h
  simp only [pull, this, BusResult.ok_andThen]

/-- Different stack pointers give different stack addresses. -/
theorem stackAddr_ne {s : State} {m n : Byte} (h : m ≠ n) : State.stackAddr { s with sp := m } ≠ State.stackAddr { s with sp := n } := by
  intro e
  have := congrArg lo e
  simp only [State.stackAddr, lo_concat] at this
  exact h this

/-- Everything a completing step is. -/
theorem finish_next {s t : State} {r : BusResult State} (h : finish s r = .next t) : ∃ u b, r = .ok u b ∧ t = u.setBus b := by
  cases r with
  | ok u b => cases h; exact ⟨u, b, rfl, rfl⟩
  | raised e b => cases h
  | noCase => cases h

/-- Everything a completing read instruction leaves. -/
theorem readRow_next {o : Operand} {base : Nat} {pen : Resolved → Nat} {f : Byte → State → State} {s t : State} (h : readRow o base pen f s = .next t) :
    ∃ r m b, readOperand o s s.bus = .ok (r, m) b ∧ t = (commit o base (pen r) none s (f m s)).setBus b := by
  unfold readRow at h
  cases hr : readOperand o s s.bus with
  | ok rm b => rw [hr] at h; cases h; exact ⟨_, _, _, rfl, rfl⟩
  | raised e b => rw [hr] at h; cases h
  | noCase => rw [hr] at h; cases h

/-- Everything a completing store leaves. -/
theorem storeRow_next {o : Operand} {base : Nat} {v : Byte} {s t : State} (h : storeRow o base v s = .next t) :
    ∃ a b b1, operandAddress o s s.bus = .ok a b ∧ b.write a.1 v = .ok () b1 ∧ t = (commit o base 0 none s s).setBus b1 := by
  unfold storeRow at h
  cases hr : operandAddress o s s.bus with
  | ok a b =>
    rw [hr] at h; simp only [BusResult.ok_andThen] at h
    cases hw : b.write a.1 v with
    | ok u b1 => rw [hw] at h; cases h; exact ⟨_, _, _, rfl, hw, rfl⟩
    | raised e b => rw [hw] at h; cases h
    | noCase => rw [hw] at h; cases h
  | raised e b => rw [hr] at h; cases h
  | noCase => rw [hr] at h; cases h

/-- Everything a completing read-modify-write leaves. -/
theorem modifyRow_next {o : Operand} {base : Nat} {f : Byte → State → Byte × Byte} {s t : State} (h : modifyRow o base f s = .next t) :
    ∃ r m b u b1, readOperand o s s.bus = .ok (r, m) b ∧ store r.operand (f m s).1 s b = .ok u b1 ∧
      t = (commit o base 0 none s (u.setP (f m s).2)).setBus b1 := by
  unfold modifyRow at h
  cases hr : readOperand o s s.bus with
  | ok a b =>
    rw [hr] at h; simp only [BusResult.ok_andThen] at h
    cases hw : store a.1.operand (f a.2 s).1 s b with
    | ok u b1 => rw [hw] at h; cases h; exact ⟨_, _, _, _, _, rfl, hw, rfl⟩
    | raised e b => rw [hw] at h; cases h
    | noCase => rw [hw] at h; cases h
  | raised e b => rw [hr] at h; cases h
  | noCase => rw [hr] at h; cases h

/-- Everything a completing JMP leaves. -/
theorem jumpRow_next {o : Operand} {base : Nat} {s t : State} (h : jumpRow o base s = .next t) :
    ∃ a b, operandAddress o s s.bus = .ok a b ∧ t = (commit o base 0 (some a.1) s s).setBus b := by
  unfold jumpRow at h
  cases hr : operandAddress o s s.bus with
  | ok a b => rw [hr] at h; cases h; exact ⟨_, _, rfl, rfl⟩
  | raised e b => rw [hr] at h; cases h
  | noCase => rw [hr] at h; cases h

/-- Everything a completing branch leaves, but PC. -/
theorem branchRow_next {off : Byte} {taken : Bool} {s t : State} (h : branchRow off taken s = .next t) :
    t.a = s.a ∧ t.x = s.x ∧ t.y = s.y ∧ t.sp = s.sp ∧ t.p = s.p ∧ t.bus = s.bus ∧
      t.cycles = s.cycles + 2 + (if taken then (if pageCross (s.pc + 2) (branchTarget s.pc off) then 2 else 1) else 0) := by
  cases taken <;> cases h <;> simp [commit]

/-- Everything a completing push leaves. -/
theorem pushRow_next {base : Nat} {v : Byte} {s t : State} (h : pushRow base v s = .next t) :
    ∃ b, s.bus.write s.stackAddr v = .ok () b ∧ t = (commit .implied base 0 none s (s.setSp (s.sp - 1))).setBus b := by
  unfold pushRow at h
  cases hr : push v s s.bus with
  | ok u b => rw [hr] at h; obtain ⟨rfl, hw⟩ := push_ok hr; cases h; exact ⟨_, hw, rfl⟩
  | raised e b => rw [hr] at h; cases h
  | noCase => rw [hr] at h; cases h

/-- Everything a completing pull leaves. -/
theorem pullRow_next {base : Nat} {f : Byte → State → State} {s t : State} (h : pullRow base f s = .next t) :
    ∃ v b, s.bus.read (s.setSp (s.sp + 1)).stackAddr = .ok v b ∧ t = (commit .implied base 0 none s (f v (s.setSp (s.sp + 1)))).setBus b := by
  unfold pullRow at h
  cases hr : pull s s.bus with
  | ok u b => obtain ⟨v, u⟩ := u; rw [hr] at h; obtain ⟨rfl, hw⟩ := pull_ok hr; cases h; exact ⟨_, _, hw, rfl⟩
  | raised e b => rw [hr] at h; cases h
  | noCase => rw [hr] at h; cases h

/-- Everything a completing implied instruction leaves. -/
theorem impliedRow_next {base : Nat} {f : State → State} {s t : State} (h : impliedRow base f s = .next t) :
    t = (commit .implied base 0 none s (f s)).setBus s.bus := by cases h; rfl

/-- Everything a successful power-on leaves. -/
theorem power_next {s t : State} (h : power s = .next t) : ∃ w b, s.bus.readWord s.params.resetVector = .ok w b ∧ t = poweredState s w b := by
  unfold power at h
  split at h <;> cases h
  exact ⟨_, _, by assumption, rfl⟩

end Sys2Proof.Machine
end

