-- ==== Sys2Proof/Laws/Table.lean ====
section
/-! SUPPORT. Every row of the opcode table, checked once: the instruction a row makes is encoded as the row's byte and the
operand bytes, and has the row's length. -/

namespace Sys2Proof

/-- The instruction a row makes of its operand bytes is encoded as the row's opcode and those bytes. -/
def OpcodeRow.Encodes (r : OpcodeRow) : Prop :=
  match r.build with
  | .bare i => encode i = [r.byte] ∧ i.length = 1
  | .withByte f => ∀ v, encode (f v) = [r.byte, v] ∧ (f v).length = 2
  | .withWord f => ∀ w, encode (f w) = [r.byte, lo w, hi w] ∧ (f w).length = 3

theorem encodes_row0x : ∀ r ∈ opcodeRow0x, r.Encodes := by
  simp only [opcodeRow0x, List.forall_mem_cons]
  exact ⟨⟨rfl, rfl⟩, fun _ => ⟨rfl, rfl⟩, fun _ => ⟨rfl, rfl⟩, fun _ => ⟨rfl, rfl⟩, ⟨rfl, rfl⟩,
    fun _ => ⟨rfl, rfl⟩, ⟨rfl, rfl⟩, fun _ => ⟨rfl, rfl⟩, fun _ => ⟨rfl, rfl⟩, fun _ h => nomatch h⟩

theorem encodes_row1x : ∀ r ∈ opcodeRow1x, r.Encodes := by
  simp only [opcodeRow1x, List.forall_mem_cons]
  exact ⟨fun _ => ⟨rfl, rfl⟩, fun _ => ⟨rfl, rfl⟩, fun _ => ⟨rfl, rfl⟩, fun _ => ⟨rfl, rfl⟩, ⟨rfl, rfl⟩,
    fun _ => ⟨rfl, rfl⟩, fun _ => ⟨rfl, rfl⟩, fun _ => ⟨rfl, rfl⟩, fun _ h => nomatch h⟩

theorem encodes_row2x : ∀ r ∈ opcodeRow2x, r.Encodes := by
  simp only [opcodeRow2x, List.forall_mem_cons]
  exact ⟨fun _ => ⟨rfl, rfl⟩, fun _ => ⟨rfl, rfl⟩, fun _ => ⟨rfl, rfl⟩, fun _ => ⟨rfl, rfl⟩, fun _ => ⟨rfl, rfl⟩,
    ⟨rfl, rfl⟩, fun _ => ⟨rfl, rfl⟩, ⟨rfl, rfl⟩, fun _ => ⟨rfl, rfl⟩, fun _ => ⟨rfl, rfl⟩, fun _ => ⟨rfl, rfl⟩,
    fun _ h => nomatch h⟩

theorem encodes_row3x : ∀ r ∈ opcodeRow3x, r.Encodes := by
  simp only [opcodeRow3x, List.forall_mem_cons]
  exact ⟨fun _ => ⟨rfl, rfl⟩, fun _ => ⟨rfl, rfl⟩, fun _ => ⟨rfl, rfl⟩, fun _ => ⟨rfl, rfl⟩, ⟨rfl, rfl⟩,
    fun _ => ⟨rfl, rfl⟩, fun _ => ⟨rfl, rfl⟩, fun _ => ⟨rfl, rfl⟩, fun _ h => nomatch h⟩

theorem encodes_row4x : ∀ r ∈ opcodeRow4x, r.Encodes := by
  simp only [opcodeRow4x, List.forall_mem_cons]
  exact ⟨⟨rfl, rfl⟩, fun _ => ⟨rfl, rfl⟩, fun _ => ⟨rfl, rfl⟩, fun _ => ⟨rfl, rfl⟩, ⟨rfl, rfl⟩,
    fun _ => ⟨rfl, rfl⟩, ⟨rfl, rfl⟩, fun _ => ⟨rfl, rfl⟩, fun _ => ⟨rfl, rfl⟩, fun _ => ⟨rfl, rfl⟩,
    fun _ h => nomatch h⟩

theorem encodes_row5x : ∀ r ∈ opcodeRow5x, r.Encodes := by
  simp only [opcodeRow5x, List.forall_mem_cons]
  exact ⟨fun _ => ⟨rfl, rfl⟩, fun _ => ⟨rfl, rfl⟩, fun _ => ⟨rfl, rfl⟩, fun _ => ⟨rfl, rfl⟩, ⟨rfl, rfl⟩,
    fun _ => ⟨rfl, rfl⟩, fun _ => ⟨rfl, rfl⟩, fun _ => ⟨rfl, rfl⟩, fun _ h => nomatch h⟩

theorem encodes_row6x : ∀ r ∈ opcodeRow6x, r.Encodes := by
  simp only [opcodeRow6x, List.forall_mem_cons]
  exact ⟨⟨rfl, rfl⟩, fun _ => ⟨rfl, rfl⟩, fun _ => ⟨rfl, rfl⟩, fun _ => ⟨rfl, rfl⟩, ⟨rfl, rfl⟩,
    fun _ => ⟨rfl, rfl⟩, ⟨rfl, rfl⟩, fun _ => ⟨rfl, rfl⟩, fun _ => ⟨rfl, rfl⟩, fun _ => ⟨rfl, rfl⟩,
    fun _ h => nomatch h⟩

theorem encodes_row7x : ∀ r ∈ opcodeRow7x, r.Encodes := by
  simp only [opcodeRow7x, List.forall_mem_cons]
  exact ⟨fun _ => ⟨rfl, rfl⟩, fun _ => ⟨rfl, rfl⟩, fun _ => ⟨rfl, rfl⟩, fun _ => ⟨rfl, rfl⟩, ⟨rfl, rfl⟩,
    fun _ => ⟨rfl, rfl⟩, fun _ => ⟨rfl, rfl⟩, fun _ => ⟨rfl, rfl⟩, fun _ h => nomatch h⟩

theorem encodes_row8x : ∀ r ∈ opcodeRow8x, r.Encodes := by
  simp only [opcodeRow8x, List.forall_mem_cons]
  exact ⟨fun _ => ⟨rfl, rfl⟩, fun _ => ⟨rfl, rfl⟩, fun _ => ⟨rfl, rfl⟩, fun _ => ⟨rfl, rfl⟩, ⟨rfl, rfl⟩,
    ⟨rfl, rfl⟩, fun _ => ⟨rfl, rfl⟩, fun _ => ⟨rfl, rfl⟩, fun _ => ⟨rfl, rfl⟩, fun _ h => nomatch h⟩

theorem encodes_row9x : ∀ r ∈ opcodeRow9x, r.Encodes := by
  simp only [opcodeRow9x, List.forall_mem_cons]
  exact ⟨fun _ => ⟨rfl, rfl⟩, fun _ => ⟨rfl, rfl⟩, fun _ => ⟨rfl, rfl⟩, fun _ => ⟨rfl, rfl⟩, fun _ => ⟨rfl, rfl⟩,
    ⟨rfl, rfl⟩, fun _ => ⟨rfl, rfl⟩, ⟨rfl, rfl⟩, fun _ => ⟨rfl, rfl⟩, fun _ h => nomatch h⟩

theorem encodes_rowAx : ∀ r ∈ opcodeRowAx, r.Encodes := by
  simp only [opcodeRowAx, List.forall_mem_cons]
  exact ⟨fun _ => ⟨rfl, rfl⟩, fun _ => ⟨rfl, rfl⟩, fun _ => ⟨rfl, rfl⟩, fun _ => ⟨rfl, rfl⟩, fun _ => ⟨rfl, rfl⟩,
    fun _ => ⟨rfl, rfl⟩, ⟨rfl, rfl⟩, fun _ => ⟨rfl, rfl⟩, ⟨rfl, rfl⟩, fun _ => ⟨rfl, rfl⟩, fun _ => ⟨rfl, rfl⟩,
    fun _ => ⟨rfl, rfl⟩, fun _ h => nomatch h⟩

theorem encodes_rowBx : ∀ r ∈ opcodeRowBx, r.Encodes := by
  simp only [opcodeRowBx, List.forall_mem_cons]
  exact ⟨fun _ => ⟨rfl, rfl⟩, fun _ => ⟨rfl, rfl⟩, fun _ => ⟨rfl, rfl⟩, fun _ => ⟨rfl, rfl⟩, fun _ => ⟨rfl, rfl⟩,
    ⟨rfl, rfl⟩, fun _ => ⟨rfl, rfl⟩, ⟨rfl, rfl⟩, fun _ => ⟨rfl, rfl⟩, fun _ => ⟨rfl, rfl⟩, fun _ => ⟨rfl, rfl⟩,
    fun _ h => nomatch h⟩

theorem encodes_rowCx : ∀ r ∈ opcodeRowCx, r.Encodes := by
  simp only [opcodeRowCx, List.forall_mem_cons]
  exact ⟨fun _ => ⟨rfl, rfl⟩, fun _ => ⟨rfl, rfl⟩, fun _ => ⟨rfl, rfl⟩, fun _ => ⟨rfl, rfl⟩, fun _ => ⟨rfl, rfl⟩,
    ⟨rfl, rfl⟩, fun _ => ⟨rfl, rfl⟩, ⟨rfl, rfl⟩, fun _ => ⟨rfl, rfl⟩, fun _ => ⟨rfl, rfl⟩, fun _ => ⟨rfl, rfl⟩,
    fun _ h => nomatch h⟩

theorem encodes_rowDx : ∀ r ∈ opcodeRowDx, r.Encodes := by
  simp only [opcodeRowDx, List.forall_mem_cons]
  exact ⟨fun _ => ⟨rfl, rfl⟩, fun _ => ⟨rfl, rfl⟩, fun _ => ⟨rfl, rfl⟩, fun _ => ⟨rfl, rfl⟩, ⟨rfl, rfl⟩,
    fun _ => ⟨rfl, rfl⟩, fun _ => ⟨rfl, rfl⟩, fun _ => ⟨rfl, rfl⟩, fun _ h => nomatch h⟩

theorem encodes_rowEx : ∀ r ∈ opcodeRowEx, r.Encodes := by
  simp only [opcodeRowEx, List.forall_mem_cons]
  exact ⟨fun _ => ⟨rfl, rfl⟩, fun _ => ⟨rfl, rfl⟩, fun _ => ⟨rfl, rfl⟩, fun _ => ⟨rfl, rfl⟩, fun _ => ⟨rfl, rfl⟩,
    ⟨rfl, rfl⟩, fun _ => ⟨rfl, rfl⟩, ⟨rfl, rfl⟩, fun _ => ⟨rfl, rfl⟩, fun _ => ⟨rfl, rfl⟩, fun _ => ⟨rfl, rfl⟩,
    fun _ h => nomatch h⟩

theorem encodes_rowFx : ∀ r ∈ opcodeRowFx, r.Encodes := by
  simp only [opcodeRowFx, List.forall_mem_cons]
  exact ⟨fun _ => ⟨rfl, rfl⟩, fun _ => ⟨rfl, rfl⟩, fun _ => ⟨rfl, rfl⟩, fun _ => ⟨rfl, rfl⟩, ⟨rfl, rfl⟩,
    fun _ => ⟨rfl, rfl⟩, fun _ => ⟨rfl, rfl⟩, fun _ => ⟨rfl, rfl⟩, fun _ h => nomatch h⟩

/-- Every row of the opcode table encodes what it decodes. -/
theorem table_encodes : ∀ r ∈ opcodeTable, r.Encodes := by
  simp only [opcodeTable, List.forall_mem_append]
  exact ⟨⟨⟨⟨⟨⟨⟨⟨⟨⟨⟨⟨⟨⟨⟨encodes_row0x, encodes_row1x⟩, encodes_row2x⟩, encodes_row3x⟩, encodes_row4x⟩, encodes_row5x⟩, encodes_row6x⟩, encodes_row7x⟩, encodes_row8x⟩, encodes_row9x⟩, encodes_rowAx⟩, encodes_rowBx⟩, encodes_rowCx⟩, encodes_rowDx⟩, encodes_rowEx⟩, encodes_rowFx⟩

/-- What a lookup by byte finds: a row of the table, with that byte. -/
theorem findByte_some {op : Byte} {r : OpcodeRow} (h : findByte op = some r) : r ∈ opcodeTable ∧ r.byte = op :=
  ⟨List.mem_of_find?_eq_some h, by simpa using List.find?_some h⟩

/-- What a lookup by pair finds: a row of the table, with that operation and mode. -/
theorem findPair_some {op : Operation} {m : AddressMode} {r : OpcodeRow} (h : findPair op m = some r) :
    r ∈ opcodeTable ∧ r.operation = op ∧ r.mode = m := by
  refine ⟨List.mem_of_find?_eq_some h, ?_⟩
  simpa using List.find?_some h

end Sys2Proof
end

