-- ==== Sys2Proof/Tests/Slice0.lean ====
section
/-! SUPPORT. The model's own tests: the words of R99 and R81 decode to their instructions, the ill-formed terms are
refused, the vectors of `spec/95_test_vectors.md` hold of one step each, and the lifecycle vectors hold of host
calls. Expected values are the spec's own. -/

-- One test at a time: a thread for each would need more memory than the check allows.
set_option Elab.async false

namespace Sys2Proof.Tests

open Sys2Proof.Machine

/-! Well-formedness: one ill-formed term for each check. -/

/-- "Writing through an immediate operand" is no instruction (R97, R102). -/
theorem test_sta_immediate_refused :
    (Term.mk .sta .immediate [0x10]).problem = some (.undefinedPair .sta .immediate) := by decide

/-- An Absolute operand takes two bytes (R81). -/
theorem test_lda_absolute_one_byte_refused :
    (Term.mk .lda .absolute [0x10]).problem = some (.wrongOperandBytes .absolute 1) := by decide

theorem test_lda_absolute_wellFormed : (Term.mk .lda .absolute [0x34, 0x12]).WellFormed := by decide

theorem test_construct_ill_formed :
    construct (Term.mk .sta .immediate [0x10]) = .error (.configurationError .sta .immediate) := by decide +kernel

/-! Decoding: for every row, the word of the spec's encoding. -/

/-- The instruction a list of bytes is, if it is exactly one. -/
def decoded (bs : List Byte) : Option Instr :=
  match decode bs with
  | .ok (i, []) => some i
  | _ => none

/-- Row 0x of the map of R99, the operands laid out as R81 says. -/
theorem test_decode_row0x : [
    [0x00], [0x01, 0x9C], [0x05, 0x9C], [0x06, 0x9C], [0x08], [0x09, 0x9C], [0x0A], [0x0D, 0x34, 0x12],
    [0x0E, 0x34, 0x12]].map decoded = [
    some .brk, some (.oraIndX 0x9C), some (.oraZp 0x9C), some (.aslZp 0x9C), some .php, some (.oraImm 0x9C),
    some .aslA, some (.oraAbs 0x1234), some (.aslAbs 0x1234)] := by decide +kernel

/-- Row 1x of the map of R99, the operands laid out as R81 says. -/
theorem test_decode_row1x : [
    [0x10, 0x9C], [0x11, 0x9C], [0x15, 0x9C], [0x16, 0x9C], [0x18], [0x19, 0x34, 0x12], [0x1D, 0x34, 0x12],
    [0x1E, 0x34, 0x12]].map decoded = [
    some (.bpl 0x9C), some (.oraIndY 0x9C), some (.oraZpX 0x9C), some (.aslZpX 0x9C), some .clc,
    some (.oraAbsY 0x1234), some (.oraAbsX 0x1234), some (.aslAbsX 0x1234)] := by decide +kernel

/-- Row 2x of the map of R99, the operands laid out as R81 says. -/
theorem test_decode_row2x : [
    [0x20, 0x34, 0x12], [0x21, 0x9C], [0x24, 0x9C], [0x25, 0x9C], [0x26, 0x9C], [0x28], [0x29, 0x9C], [0x2A],
    [0x2C, 0x34, 0x12], [0x2D, 0x34, 0x12], [0x2E, 0x34, 0x12]].map decoded = [
    some (.jsr 0x1234), some (.andIndX 0x9C), some (.bitZp 0x9C), some (.andZp 0x9C), some (.rolZp 0x9C), some .plp,
    some (.andImm 0x9C), some .rolA, some (.bitAbs 0x1234), some (.andAbs 0x1234), some (.rolAbs 0x1234)] := by decide +kernel

/-- Row 3x of the map of R99, the operands laid out as R81 says. -/
theorem test_decode_row3x : [
    [0x30, 0x9C], [0x31, 0x9C], [0x35, 0x9C], [0x36, 0x9C], [0x38], [0x39, 0x34, 0x12], [0x3D, 0x34, 0x12],
    [0x3E, 0x34, 0x12]].map decoded = [
    some (.bmi 0x9C), some (.andIndY 0x9C), some (.andZpX 0x9C), some (.rolZpX 0x9C), some .sec,
    some (.andAbsY 0x1234), some (.andAbsX 0x1234), some (.rolAbsX 0x1234)] := by decide +kernel

/-- Row 4x of the map of R99, the operands laid out as R81 says. -/
theorem test_decode_row4x : [
    [0x40], [0x41, 0x9C], [0x45, 0x9C], [0x46, 0x9C], [0x48], [0x49, 0x9C], [0x4A], [0x4C, 0x34, 0x12],
    [0x4D, 0x34, 0x12], [0x4E, 0x34, 0x12]].map decoded = [
    some .rti, some (.eorIndX 0x9C), some (.eorZp 0x9C), some (.lsrZp 0x9C), some .pha, some (.eorImm 0x9C),
    some .lsrA, some (.jmpAbs 0x1234), some (.eorAbs 0x1234), some (.lsrAbs 0x1234)] := by decide +kernel

/-- Row 5x of the map of R99, the operands laid out as R81 says. -/
theorem test_decode_row5x : [
    [0x50, 0x9C], [0x51, 0x9C], [0x55, 0x9C], [0x56, 0x9C], [0x58], [0x59, 0x34, 0x12], [0x5D, 0x34, 0x12],
    [0x5E, 0x34, 0x12]].map decoded = [
    some (.bvc 0x9C), some (.eorIndY 0x9C), some (.eorZpX 0x9C), some (.lsrZpX 0x9C), some .cli,
    some (.eorAbsY 0x1234), some (.eorAbsX 0x1234), some (.lsrAbsX 0x1234)] := by decide +kernel

/-- Row 6x of the map of R99, the operands laid out as R81 says. -/
theorem test_decode_row6x : [
    [0x60], [0x61, 0x9C], [0x65, 0x9C], [0x66, 0x9C], [0x68], [0x69, 0x9C], [0x6A], [0x6C, 0x34, 0x12],
    [0x6D, 0x34, 0x12], [0x6E, 0x34, 0x12]].map decoded = [
    some .rts, some (.adcIndX 0x9C), some (.adcZp 0x9C), some (.rorZp 0x9C), some .pla, some (.adcImm 0x9C),
    some .rorA, some (.jmpInd 0x1234), some (.adcAbs 0x1234), some (.rorAbs 0x1234)] := by decide +kernel

/-- Row 7x of the map of R99, the operands laid out as R81 says. -/
theorem test_decode_row7x : [
    [0x70, 0x9C], [0x71, 0x9C], [0x75, 0x9C], [0x76, 0x9C], [0x78], [0x79, 0x34, 0x12], [0x7D, 0x34, 0x12],
    [0x7E, 0x34, 0x12]].map decoded = [
    some (.bvs 0x9C), some (.adcIndY 0x9C), some (.adcZpX 0x9C), some (.rorZpX 0x9C), some .sei,
    some (.adcAbsY 0x1234), some (.adcAbsX 0x1234), some (.rorAbsX 0x1234)] := by decide +kernel

/-- Row 8x of the map of R99, the operands laid out as R81 says. -/
theorem test_decode_row8x : [
    [0x81, 0x9C], [0x84, 0x9C], [0x85, 0x9C], [0x86, 0x9C], [0x88], [0x8A], [0x8C, 0x34, 0x12], [0x8D, 0x34, 0x12],
    [0x8E, 0x34, 0x12]].map decoded = [
    some (.staIndX 0x9C), some (.styZp 0x9C), some (.staZp 0x9C), some (.stxZp 0x9C), some .dey, some .txa,
    some (.styAbs 0x1234), some (.staAbs 0x1234), some (.stxAbs 0x1234)] := by decide +kernel

/-- Row 9x of the map of R99, the operands laid out as R81 says. -/
theorem test_decode_row9x : [
    [0x90, 0x9C], [0x91, 0x9C], [0x94, 0x9C], [0x95, 0x9C], [0x96, 0x9C], [0x98], [0x99, 0x34, 0x12], [0x9A],
    [0x9D, 0x34, 0x12]].map decoded = [
    some (.bcc 0x9C), some (.staIndY 0x9C), some (.styZpX 0x9C), some (.staZpX 0x9C), some (.stxZpY 0x9C), some .tya,
    some (.staAbsY 0x1234), some .txs, some (.staAbsX 0x1234)] := by decide +kernel

/-- Row Ax of the map of R99, the operands laid out as R81 says. -/
theorem test_decode_rowAx : [
    [0xA0, 0x9C], [0xA1, 0x9C], [0xA2, 0x9C], [0xA4, 0x9C], [0xA5, 0x9C], [0xA6, 0x9C], [0xA8], [0xA9, 0x9C], [0xAA],
    [0xAC, 0x34, 0x12], [0xAD, 0x34, 0x12], [0xAE, 0x34, 0x12]].map decoded = [
    some (.ldyImm 0x9C), some (.ldaIndX 0x9C), some (.ldxImm 0x9C), some (.ldyZp 0x9C), some (.ldaZp 0x9C),
    some (.ldxZp 0x9C), some .tay, some (.ldaImm 0x9C), some .tax, some (.ldyAbs 0x1234), some (.ldaAbs 0x1234),
    some (.ldxAbs 0x1234)] := by decide +kernel

/-- Row Bx of the map of R99, the operands laid out as R81 says. -/
theorem test_decode_rowBx : [
    [0xB0, 0x9C], [0xB1, 0x9C], [0xB4, 0x9C], [0xB5, 0x9C], [0xB6, 0x9C], [0xB8], [0xB9, 0x34, 0x12], [0xBA],
    [0xBC, 0x34, 0x12], [0xBD, 0x34, 0x12], [0xBE, 0x34, 0x12]].map decoded = [
    some (.bcs 0x9C), some (.ldaIndY 0x9C), some (.ldyZpX 0x9C), some (.ldaZpX 0x9C), some (.ldxZpY 0x9C), some .clv,
    some (.ldaAbsY 0x1234), some .tsx, some (.ldyAbsX 0x1234), some (.ldaAbsX 0x1234), some (.ldxAbsY 0x1234)] := by decide +kernel

/-- Row Cx of the map of R99, the operands laid out as R81 says. -/
theorem test_decode_rowCx : [
    [0xC0, 0x9C], [0xC1, 0x9C], [0xC4, 0x9C], [0xC5, 0x9C], [0xC6, 0x9C], [0xC8], [0xC9, 0x9C], [0xCA],
    [0xCC, 0x34, 0x12], [0xCD, 0x34, 0x12], [0xCE, 0x34, 0x12]].map decoded = [
    some (.cpyImm 0x9C), some (.cmpIndX 0x9C), some (.cpyZp 0x9C), some (.cmpZp 0x9C), some (.decZp 0x9C), some .iny,
    some (.cmpImm 0x9C), some .dex, some (.cpyAbs 0x1234), some (.cmpAbs 0x1234), some (.decAbs 0x1234)] := by decide +kernel

/-- Row Dx of the map of R99, the operands laid out as R81 says. -/
theorem test_decode_rowDx : [
    [0xD0, 0x9C], [0xD1, 0x9C], [0xD5, 0x9C], [0xD6, 0x9C], [0xD8], [0xD9, 0x34, 0x12], [0xDD, 0x34, 0x12],
    [0xDE, 0x34, 0x12]].map decoded = [
    some (.bne 0x9C), some (.cmpIndY 0x9C), some (.cmpZpX 0x9C), some (.decZpX 0x9C), some .cld,
    some (.cmpAbsY 0x1234), some (.cmpAbsX 0x1234), some (.decAbsX 0x1234)] := by decide +kernel

/-- Row Ex of the map of R99, the operands laid out as R81 says. -/
theorem test_decode_rowEx : [
    [0xE0, 0x9C], [0xE1, 0x9C], [0xE4, 0x9C], [0xE5, 0x9C], [0xE6, 0x9C], [0xE8], [0xE9, 0x9C], [0xEA],
    [0xEC, 0x34, 0x12], [0xED, 0x34, 0x12], [0xEE, 0x34, 0x12]].map decoded = [
    some (.cpxImm 0x9C), some (.sbcIndX 0x9C), some (.cpxZp 0x9C), some (.sbcZp 0x9C), some (.incZp 0x9C), some .inx,
    some (.sbcImm 0x9C), some .nop, some (.cpxAbs 0x1234), some (.sbcAbs 0x1234), some (.incAbs 0x1234)] := by decide +kernel

/-- Row Fx of the map of R99, the operands laid out as R81 says. -/
theorem test_decode_rowFx : [
    [0xF0, 0x9C], [0xF1, 0x9C], [0xF5, 0x9C], [0xF6, 0x9C], [0xF8], [0xF9, 0x34, 0x12], [0xFD, 0x34, 0x12],
    [0xFE, 0x34, 0x12]].map decoded = [
    some (.beq 0x9C), some (.sbcIndY 0x9C), some (.sbcZpX 0x9C), some (.incZpX 0x9C), some .sed,
    some (.sbcAbsY 0x1234), some (.sbcAbsX 0x1234), some (.incAbsX 0x1234)] := by decide +kernel

theorem test_decode_undefined : decode [0x02, 0x00] = .error (.undefinedOpcode 0x02) := by decide +kernel

theorem test_decode_truncated : decode [0xAD, 0x34] = .error (.truncated 0xAD) := by decide +kernel

theorem test_decode_empty : decode [] = .error .empty := by decide +kernel

theorem test_table_has_151_rows : opcodeTable.length = 151 := by decide +kernel

/-! One step from the vector baseline: a plain 64 KiB RAM (R68). -/

/-- A, X, Y, SP and P. -/
structure Regs where
  a : Byte
  x : Byte
  y : Byte
  sp : Byte
  p : Byte
  deriving DecidableEq, Repr

/-- A vector: the bytes at PC, PC, the registers and the memory before; the registers, the memory changed, PC and the
charge after. -/
structure Vector where
  bytes : List Byte
  pc : Word
  before : Regs
  memory : List (Nat × Byte)
  after : Regs
  changed : List (Nat × Byte)
  pcAfter : Word
  charge : Nat
  deriving DecidableEq, Repr

/-- A running core on the RAM fixture. -/
def fixture (pc : Word) (r : Regs) (memory : List (Nat × Byte)) : State where
  a := r.a
  x := r.x
  y := r.y
  sp := r.sp
  p := r.p
  pc := pc
  cycles := 0
  mode := .running
  bus := { Bus.ram with cells := memory.foldl (fun m kv => setCell m kv.1 kv.2) [] }
  params := Params.hardware

/-- The vector's start: its memory with its bytes at PC. -/
def Vector.start (v : Vector) : State :=
  let s := fixture v.pc v.before v.memory
  s.setBus (s.bus.placeAll v.pc v.bytes)

/-- The registers of a state. -/
def regsOf (s : State) : Regs := ⟨s.a, s.x, s.y, s.sp, s.p⟩

/-- A next state that meets a check. -/
def nextMeets (o : Host.Outcome State Fault Refusal) (check : State → Bool) : Bool :=
  match o with
  | .next t => check t
  | .fault _ => false
  | .refused _ => false

/-- The vector holds of one step, and memory holds the changed bytes and no other change. -/
def Vector.holds (v : Vector) : Bool :=
  nextMeets (step v.start) fun t =>
    decide (regsOf t = v.after) && decide (t.pc = v.pcAfter) && decide (t.cycles = v.charge) &&
      decide (t.bus.cells = v.changed.foldl (fun m kv => setCell m kv.1 kv.2) v.start.bus.cells)

def vectorsHold (vs : List Vector) : Bool := vs.all Vector.holds

/-- ADC: the vectors of `spec/95_test_vectors.md` named beside each row. -/
theorem test_vectors_adc : vectorsHold [
    -- V1
    ⟨[0x69, 0x17], 0x8000, ⟨0x55, 0x00, 0x00, 0xFF, 0x04⟩, [], ⟨0x6C, 0x00, 0x00, 0xFF, 0x04⟩, [], 0x8002, 2⟩,
    -- V2
    ⟨[0x69, 0x17], 0x8000, ⟨0x55, 0x00, 0x00, 0xFF, 0x05⟩, [], ⟨0x6D, 0x00, 0x00, 0xFF, 0x04⟩, [], 0x8002, 2⟩,
    -- V3
    ⟨[0x69, 0x7F], 0x8000, ⟨0x7F, 0x00, 0x00, 0xFF, 0x04⟩, [], ⟨0xFE, 0x00, 0x00, 0xFF, 0xC4⟩, [], 0x8002, 2⟩,
    -- V4
    ⟨[0x69, 0x80], 0x8000, ⟨0x80, 0x00, 0x00, 0xFF, 0x04⟩, [], ⟨0x00, 0x00, 0x00, 0xFF, 0x47⟩, [], 0x8002, 2⟩,
    -- V5
    ⟨[0x69, 0x01], 0x8000, ⟨0xFF, 0x00, 0x00, 0xFF, 0x04⟩, [], ⟨0x00, 0x00, 0x00, 0xFF, 0x07⟩, [], 0x8002, 2⟩,
    -- V6
    ⟨[0x69, 0x00], 0x8000, ⟨0x7F, 0x00, 0x00, 0xFF, 0x05⟩, [], ⟨0x80, 0x00, 0x00, 0xFF, 0xC4⟩, [], 0x8002, 2⟩,
    -- V7
    ⟨[0x69, 0xFF], 0x8000, ⟨0xFF, 0x00, 0x00, 0xFF, 0x05⟩, [], ⟨0xFF, 0x00, 0x00, 0xFF, 0x85⟩, [], 0x8002, 2⟩,
    -- V8
    ⟨[0x65, 0x10], 0x8000, ⟨0x01, 0x00, 0x00, 0xFF, 0x04⟩, [(0x0010, 0x02)], ⟨0x03, 0x00, 0x00, 0xFF, 0x04⟩, [], 0x8002, 3⟩,
    -- V9
    ⟨[0x75, 0xFF], 0x8000, ⟨0x01, 0x02, 0x00, 0xFF, 0x04⟩, [(0x0001, 0x10)], ⟨0x11, 0x02, 0x00, 0xFF, 0x04⟩, [], 0x8002, 4⟩,
    -- V10
    ⟨[0x6D, 0x34, 0x12], 0x8000, ⟨0x10, 0x00, 0x00, 0xFF, 0x04⟩, [(0x1234, 0x20)], ⟨0x30, 0x00, 0x00, 0xFF, 0x04⟩, [], 0x8003, 4⟩,
    -- V11
    ⟨[0x7D, 0xF0, 0x12], 0x8000, ⟨0x10, 0x0F, 0x00, 0xFF, 0x04⟩, [(0x12FF, 0x01)], ⟨0x11, 0x0F, 0x00, 0xFF, 0x04⟩, [], 0x8003, 4⟩,
    -- V12
    ⟨[0x7D, 0xF0, 0x12], 0x8000, ⟨0x10, 0x10, 0x00, 0xFF, 0x04⟩, [(0x1300, 0x01)], ⟨0x11, 0x10, 0x00, 0xFF, 0x04⟩, [], 0x8003, 5⟩,
    -- V13
    ⟨[0x79, 0xFF, 0xFF], 0x8000, ⟨0x10, 0x00, 0x01, 0xFF, 0x04⟩, [(0x0000, 0x05)], ⟨0x15, 0x00, 0x01, 0xFF, 0x04⟩, [], 0x8003, 5⟩,
    -- V14
    ⟨[0x61, 0xFF], 0x8000, ⟨0x01, 0x00, 0x00, 0xFF, 0x04⟩, [(0x0000, 0x30), (0x00FF, 0x00), (0x3000, 0x01)], ⟨0x02, 0x00, 0x00, 0xFF, 0x04⟩, [], 0x8002, 6⟩,
    -- V15
    ⟨[0x61, 0x20], 0x8000, ⟨0x01, 0xF0, 0x00, 0xFF, 0x04⟩, [(0x0010, 0x00), (0x0011, 0x30), (0x3000, 0x04)], ⟨0x05, 0xF0, 0x00, 0xFF, 0x04⟩, [], 0x8002, 6⟩,
    -- V16
    ⟨[0x71, 0x40], 0x8000, ⟨0x01, 0x00, 0x05, 0xFF, 0x04⟩, [(0x0040, 0x00), (0x0041, 0x30), (0x3005, 0x01)], ⟨0x02, 0x00, 0x05, 0xFF, 0x04⟩, [], 0x8002, 5⟩,
    -- V139
    ⟨[0x69, 0x01], 0x8000, ⟨0x09, 0x00, 0x00, 0xFF, 0x0C⟩, [], ⟨0x0A, 0x00, 0x00, 0xFF, 0x0C⟩, [], 0x8002, 2⟩] = true := by decide +kernel

/-- SBC: the vectors of `spec/95_test_vectors.md` named beside each row. -/
theorem test_vectors_sbc : vectorsHold [
    -- V17
    ⟨[0xE9, 0x05], 0x8000, ⟨0x10, 0x00, 0x00, 0xFF, 0x05⟩, [], ⟨0x0B, 0x00, 0x00, 0xFF, 0x05⟩, [], 0x8002, 2⟩,
    -- V18
    ⟨[0xE9, 0x05], 0x8000, ⟨0x10, 0x00, 0x00, 0xFF, 0x04⟩, [], ⟨0x0A, 0x00, 0x00, 0xFF, 0x05⟩, [], 0x8002, 2⟩,
    -- V19
    ⟨[0xE9, 0x0A], 0x8000, ⟨0x05, 0x00, 0x00, 0xFF, 0x05⟩, [], ⟨0xFB, 0x00, 0x00, 0xFF, 0x84⟩, [], 0x8002, 2⟩,
    -- V20
    ⟨[0xE9, 0x01], 0x8000, ⟨0x80, 0x00, 0x00, 0xFF, 0x05⟩, [], ⟨0x7F, 0x00, 0x00, 0xFF, 0x45⟩, [], 0x8002, 2⟩,
    -- V21
    ⟨[0xE9, 0x80], 0x8000, ⟨0x00, 0x00, 0x00, 0xFF, 0x05⟩, [], ⟨0x80, 0x00, 0x00, 0xFF, 0xC4⟩, [], 0x8002, 2⟩,
    -- V22
    ⟨[0xE9, 0x00], 0x8000, ⟨0x00, 0x00, 0x00, 0xFF, 0x04⟩, [], ⟨0xFF, 0x00, 0x00, 0xFF, 0x84⟩, [], 0x8002, 2⟩,
    -- V23
    ⟨[0xE9, 0x40], 0x8000, ⟨0x40, 0x00, 0x00, 0xFF, 0x05⟩, [], ⟨0x00, 0x00, 0x00, 0xFF, 0x07⟩, [], 0x8002, 2⟩,
    -- V24
    ⟨[0xF5, 0x10], 0x8000, ⟨0x50, 0xF5, 0x00, 0xFF, 0x05⟩, [(0x0005, 0x20)], ⟨0x30, 0xF5, 0x00, 0xFF, 0x05⟩, [], 0x8002, 4⟩,
    -- V25
    ⟨[0xF1, 0x40], 0x8000, ⟨0x50, 0x00, 0x01, 0xFF, 0x05⟩, [(0x0040, 0xFF), (0x0041, 0x30), (0x3100, 0x10)], ⟨0x40, 0x00, 0x01, 0xFF, 0x05⟩, [], 0x8002, 6⟩,
    -- V140
    ⟨[0xE9, 0x01], 0x8000, ⟨0x10, 0x00, 0x00, 0xFF, 0x0D⟩, [], ⟨0x0F, 0x00, 0x00, 0xFF, 0x0D⟩, [], 0x8002, 2⟩] = true := by decide +kernel

/-- CMP: the vectors of `spec/95_test_vectors.md` named beside each row. -/
theorem test_vectors_cmp : vectorsHold [
    -- V26
    ⟨[0xC9, 0x00], 0x8000, ⟨0x01, 0x00, 0x00, 0xFF, 0x04⟩, [], ⟨0x01, 0x00, 0x00, 0xFF, 0x05⟩, [], 0x8002, 2⟩,
    -- V27
    ⟨[0xC9, 0x02], 0x8000, ⟨0x01, 0x00, 0x00, 0xFF, 0x04⟩, [], ⟨0x01, 0x00, 0x00, 0xFF, 0x84⟩, [], 0x8002, 2⟩,
    -- V28
    ⟨[0xC9, 0x40], 0x8000, ⟨0x40, 0x00, 0x00, 0xFF, 0x04⟩, [], ⟨0x40, 0x00, 0x00, 0xFF, 0x07⟩, [], 0x8002, 2⟩,
    -- V29
    ⟨[0xC9, 0x80], 0x8000, ⟨0x00, 0x00, 0x00, 0xFF, 0x04⟩, [], ⟨0x00, 0x00, 0x00, 0xFF, 0x84⟩, [], 0x8002, 2⟩,
    -- V30
    ⟨[0xC9, 0x00], 0x8000, ⟨0x80, 0x00, 0x00, 0xFF, 0x04⟩, [], ⟨0x80, 0x00, 0x00, 0xFF, 0x85⟩, [], 0x8002, 2⟩,
    -- V31
    ⟨[0xC9, 0xFF], 0x8000, ⟨0xFF, 0x00, 0x00, 0xFF, 0xC4⟩, [], ⟨0xFF, 0x00, 0x00, 0xFF, 0x47⟩, [], 0x8002, 2⟩,
    -- V32
    ⟨[0xD9, 0x00, 0x10], 0x8000, ⟨0x10, 0x00, 0xFF, 0xFF, 0x04⟩, [(0x10FF, 0x10)], ⟨0x10, 0x00, 0xFF, 0xFF, 0x07⟩, [], 0x8003, 4⟩,
    -- V33
    ⟨[0xD9, 0xFF, 0x10], 0x8000, ⟨0x10, 0x00, 0x01, 0xFF, 0x04⟩, [(0x1100, 0x11)], ⟨0x10, 0x00, 0x01, 0xFF, 0x84⟩, [], 0x8003, 5⟩] = true := by decide +kernel

/-- CPX: the vectors of `spec/95_test_vectors.md` named beside each row. -/
theorem test_vectors_cpx : vectorsHold [
    -- V34
    ⟨[0xE0, 0x02], 0x8000, ⟨0x00, 0x01, 0x00, 0xFF, 0x04⟩, [], ⟨0x00, 0x01, 0x00, 0xFF, 0x84⟩, [], 0x8002, 2⟩,
    -- V35
    ⟨[0xE4, 0x10], 0x8000, ⟨0x00, 0x80, 0x00, 0xFF, 0x04⟩, [(0x0010, 0x7F)], ⟨0x00, 0x80, 0x00, 0xFF, 0x05⟩, [], 0x8002, 3⟩,
    -- V36
    ⟨[0xEC, 0x00, 0x02], 0x8000, ⟨0x00, 0x00, 0x00, 0xFF, 0x04⟩, [(0x0200, 0x00)], ⟨0x00, 0x00, 0x00, 0xFF, 0x07⟩, [], 0x8003, 4⟩] = true := by decide +kernel

/-- CPY: the vectors of `spec/95_test_vectors.md` named beside each row. -/
theorem test_vectors_cpy : vectorsHold [
    -- V37
    ⟨[0xC0, 0x40], 0x8000, ⟨0x00, 0x00, 0x40, 0xFF, 0x04⟩, [], ⟨0x00, 0x00, 0x40, 0xFF, 0x07⟩, [], 0x8002, 2⟩,
    -- V38
    ⟨[0xC4, 0x10], 0x8000, ⟨0x00, 0x00, 0x00, 0xFF, 0x04⟩, [(0x0010, 0x01)], ⟨0x00, 0x00, 0x00, 0xFF, 0x84⟩, [], 0x8002, 3⟩,
    -- V39
    ⟨[0xCC, 0x00, 0x02], 0x8000, ⟨0x00, 0x00, 0xFF, 0xFF, 0x04⟩, [(0x0200, 0x00)], ⟨0x00, 0x00, 0xFF, 0xFF, 0x85⟩, [], 0x8003, 4⟩] = true := by decide +kernel

/-- INC: the vectors of `spec/95_test_vectors.md` named beside each row. -/
theorem test_vectors_inc : vectorsHold [
    -- V40
    ⟨[0xE6, 0x10], 0x8000, ⟨0x00, 0x00, 0x00, 0xFF, 0x04⟩, [(0x0010, 0x41)], ⟨0x00, 0x00, 0x00, 0xFF, 0x04⟩, [(0x0010, 0x42)], 0x8002, 5⟩,
    -- V41
    ⟨[0xE6, 0x10], 0x8000, ⟨0x00, 0x00, 0x00, 0xFF, 0x04⟩, [(0x0010, 0xFF)], ⟨0x00, 0x00, 0x00, 0xFF, 0x06⟩, [(0x0010, 0x00)], 0x8002, 5⟩,
    -- V42
    ⟨[0xE6, 0x10], 0x8000, ⟨0x00, 0x00, 0x00, 0xFF, 0x04⟩, [(0x0010, 0x7F)], ⟨0x00, 0x00, 0x00, 0xFF, 0x84⟩, [(0x0010, 0x80)], 0x8002, 5⟩,
    -- V43
    ⟨[0xF6, 0xF0], 0x8000, ⟨0x00, 0x20, 0x00, 0xFF, 0x04⟩, [(0x0010, 0x01)], ⟨0x00, 0x20, 0x00, 0xFF, 0x04⟩, [(0x0010, 0x02)], 0x8002, 6⟩,
    -- V44
    ⟨[0xEE, 0x00, 0x02], 0x8000, ⟨0x00, 0x00, 0x00, 0xFF, 0x04⟩, [(0x0200, 0x05)], ⟨0x00, 0x00, 0x00, 0xFF, 0x04⟩, [(0x0200, 0x06)], 0x8003, 6⟩,
    -- V45
    ⟨[0xFE, 0xFF, 0x02], 0x8000, ⟨0x00, 0x01, 0x00, 0xFF, 0x04⟩, [(0x0300, 0x05)], ⟨0x00, 0x01, 0x00, 0xFF, 0x04⟩, [(0x0300, 0x06)], 0x8003, 7⟩] = true := by decide +kernel

/-- DEC: the vectors of `spec/95_test_vectors.md` named beside each row. -/
theorem test_vectors_dec : vectorsHold [
    -- V46
    ⟨[0xC6, 0x10], 0x8000, ⟨0x00, 0x00, 0x00, 0xFF, 0x04⟩, [(0x0010, 0x00)], ⟨0x00, 0x00, 0x00, 0xFF, 0x84⟩, [(0x0010, 0xFF)], 0x8002, 5⟩,
    -- V47
    ⟨[0xC6, 0x10], 0x8000, ⟨0x00, 0x00, 0x00, 0xFF, 0x04⟩, [(0x0010, 0x01)], ⟨0x00, 0x00, 0x00, 0xFF, 0x06⟩, [(0x0010, 0x00)], 0x8002, 5⟩,
    -- V48
    ⟨[0xCE, 0x00, 0x02], 0x8000, ⟨0x00, 0x00, 0x00, 0xFF, 0x04⟩, [(0x0200, 0x80)], ⟨0x00, 0x00, 0x00, 0xFF, 0x04⟩, [(0x0200, 0x7F)], 0x8003, 6⟩,
    -- V49
    ⟨[0xD6, 0xFF], 0x8000, ⟨0x00, 0x02, 0x00, 0xFF, 0x04⟩, [(0x0001, 0x03)], ⟨0x00, 0x02, 0x00, 0xFF, 0x04⟩, [(0x0001, 0x02)], 0x8002, 6⟩,
    -- V50
    ⟨[0xDE, 0x00, 0x02], 0x8000, ⟨0x00, 0x10, 0x00, 0xFF, 0x04⟩, [(0x0210, 0x03)], ⟨0x00, 0x10, 0x00, 0xFF, 0x04⟩, [(0x0210, 0x02)], 0x8003, 7⟩] = true := by decide +kernel

/-- INX: the vectors of `spec/95_test_vectors.md` named beside each row. -/
theorem test_vectors_inx : vectorsHold [
    -- V51
    ⟨[0xE8], 0x8000, ⟨0x00, 0xFF, 0x00, 0xFF, 0x04⟩, [], ⟨0x00, 0x00, 0x00, 0xFF, 0x06⟩, [], 0x8001, 2⟩,
    -- V52
    ⟨[0xE8], 0x8000, ⟨0x00, 0x7F, 0x00, 0xFF, 0x04⟩, [], ⟨0x00, 0x80, 0x00, 0xFF, 0x84⟩, [], 0x8001, 2⟩] = true := by decide +kernel

/-- INY: the vectors of `spec/95_test_vectors.md` named beside each row. -/
theorem test_vectors_iny : vectorsHold [
    -- V53
    ⟨[0xC8], 0x8000, ⟨0x00, 0x00, 0x0F, 0xFF, 0x04⟩, [], ⟨0x00, 0x00, 0x10, 0xFF, 0x04⟩, [], 0x8001, 2⟩,
    -- V54
    ⟨[0xC8], 0x8000, ⟨0x00, 0x00, 0xFF, 0xFF, 0x84⟩, [], ⟨0x00, 0x00, 0x00, 0xFF, 0x06⟩, [], 0x8001, 2⟩] = true := by decide +kernel

/-- DEX: the vectors of `spec/95_test_vectors.md` named beside each row. -/
theorem test_vectors_dex : vectorsHold [
    -- V55
    ⟨[0xCA], 0x8000, ⟨0x00, 0x01, 0x00, 0xFF, 0x04⟩, [], ⟨0x00, 0x00, 0x00, 0xFF, 0x06⟩, [], 0x8001, 2⟩,
    -- V56
    ⟨[0xCA], 0x8000, ⟨0x00, 0x00, 0x00, 0xFF, 0x04⟩, [], ⟨0x00, 0xFF, 0x00, 0xFF, 0x84⟩, [], 0x8001, 2⟩] = true := by decide +kernel

/-- DEY: the vectors of `spec/95_test_vectors.md` named beside each row. -/
theorem test_vectors_dey : vectorsHold [
    -- V57
    ⟨[0x88], 0x8000, ⟨0x00, 0x00, 0x80, 0xFF, 0x04⟩, [], ⟨0x00, 0x00, 0x7F, 0xFF, 0x04⟩, [], 0x8001, 2⟩,
    -- V58
    ⟨[0x88], 0x8000, ⟨0x00, 0x00, 0x00, 0xFF, 0x04⟩, [], ⟨0x00, 0x00, 0xFF, 0xFF, 0x84⟩, [], 0x8001, 2⟩] = true := by decide +kernel

/-- EOR: the vectors of `spec/95_test_vectors.md` named beside each row. -/
theorem test_vectors_eor : vectorsHold [
    -- V59
    ⟨[0x49, 0xFF], 0x8000, ⟨0xF0, 0x00, 0x00, 0xFF, 0x04⟩, [], ⟨0x0F, 0x00, 0x00, 0xFF, 0x04⟩, [], 0x8002, 2⟩,
    -- V60
    ⟨[0x49, 0x5A], 0x8000, ⟨0x5A, 0x00, 0x00, 0xFF, 0x04⟩, [], ⟨0x00, 0x00, 0x00, 0xFF, 0x06⟩, [], 0x8002, 2⟩,
    -- V61
    ⟨[0x45, 0x10], 0x8000, ⟨0x01, 0x00, 0x00, 0xFF, 0xC5⟩, [(0x0010, 0x81)], ⟨0x80, 0x00, 0x00, 0xFF, 0xC5⟩, [], 0x8002, 3⟩] = true := by decide +kernel

/-- AND: the vectors of `spec/95_test_vectors.md` named beside each row. -/
theorem test_vectors_and : vectorsHold [
    -- V62
    ⟨[0x29, 0x81], 0x8000, ⟨0xC3, 0x00, 0x00, 0xFF, 0x04⟩, [], ⟨0x81, 0x00, 0x00, 0xFF, 0x84⟩, [], 0x8002, 2⟩,
    -- V63
    ⟨[0x29, 0x0F], 0x8000, ⟨0xF0, 0x00, 0x00, 0xFF, 0x04⟩, [], ⟨0x00, 0x00, 0x00, 0xFF, 0x06⟩, [], 0x8002, 2⟩,
    -- V64
    ⟨[0x21, 0x10], 0x8000, ⟨0xFF, 0x02, 0x00, 0xFF, 0x04⟩, [(0x0012, 0x00), (0x0013, 0x02), (0x0200, 0x7E)], ⟨0x7E, 0x02, 0x00, 0xFF, 0x04⟩, [], 0x8002, 6⟩] = true := by decide +kernel

/-- ORA: the vectors of `spec/95_test_vectors.md` named beside each row. -/
theorem test_vectors_ora : vectorsHold [
    -- V65
    ⟨[0x09, 0x80], 0x8000, ⟨0x01, 0x00, 0x00, 0xFF, 0x04⟩, [], ⟨0x81, 0x00, 0x00, 0xFF, 0x84⟩, [], 0x8002, 2⟩,
    -- V66
    ⟨[0x09, 0x00], 0x8000, ⟨0x00, 0x00, 0x00, 0xFF, 0xC5⟩, [], ⟨0x00, 0x00, 0x00, 0xFF, 0x47⟩, [], 0x8002, 2⟩,
    -- V67
    ⟨[0x19, 0xFF, 0x02], 0x8000, ⟨0x01, 0x00, 0x01, 0xFF, 0x04⟩, [(0x0300, 0x02)], ⟨0x03, 0x00, 0x01, 0xFF, 0x04⟩, [], 0x8003, 5⟩] = true := by decide +kernel

/-- BIT: the vectors of `spec/95_test_vectors.md` named beside each row. -/
theorem test_vectors_bit : vectorsHold [
    -- V68
    ⟨[0x24, 0x10], 0x8000, ⟨0x01, 0x00, 0x00, 0xFF, 0x04⟩, [(0x0010, 0x41)], ⟨0x01, 0x00, 0x00, 0xFF, 0x44⟩, [], 0x8002, 3⟩,
    -- V69
    ⟨[0x24, 0x10], 0x8000, ⟨0x00, 0x00, 0x00, 0xFF, 0x04⟩, [(0x0010, 0xC0)], ⟨0x00, 0x00, 0x00, 0xFF, 0xC6⟩, [], 0x8002, 3⟩,
    -- V70
    ⟨[0x2C, 0x00, 0x02], 0x8000, ⟨0xFF, 0x00, 0x00, 0xFF, 0xC7⟩, [(0x0200, 0x3F)], ⟨0xFF, 0x00, 0x00, 0xFF, 0x05⟩, [], 0x8003, 4⟩] = true := by decide +kernel

/-- LSR: the vectors of `spec/95_test_vectors.md` named beside each row. -/
theorem test_vectors_lsr : vectorsHold [
    -- V71
    ⟨[0x4A], 0x8000, ⟨0x81, 0x00, 0x00, 0xFF, 0x05⟩, [], ⟨0x40, 0x00, 0x00, 0xFF, 0x05⟩, [], 0x8001, 2⟩,
    -- V72
    ⟨[0x4A], 0x8000, ⟨0x01, 0x00, 0x00, 0xFF, 0x04⟩, [], ⟨0x00, 0x00, 0x00, 0xFF, 0x07⟩, [], 0x8001, 2⟩,
    -- V73
    ⟨[0x4A], 0x8000, ⟨0xFF, 0x00, 0x00, 0xFF, 0x84⟩, [], ⟨0x7F, 0x00, 0x00, 0xFF, 0x05⟩, [], 0x8001, 2⟩,
    -- V74
    ⟨[0x46, 0x10], 0x8000, ⟨0x00, 0x00, 0x00, 0xFF, 0x04⟩, [(0x0010, 0x02)], ⟨0x00, 0x00, 0x00, 0xFF, 0x04⟩, [(0x0010, 0x01)], 0x8002, 5⟩] = true := by decide +kernel

/-- ASL: the vectors of `spec/95_test_vectors.md` named beside each row. -/
theorem test_vectors_asl : vectorsHold [
    -- V75
    ⟨[0x0A], 0x8000, ⟨0x55, 0x00, 0x00, 0xFF, 0x04⟩, [], ⟨0xAA, 0x00, 0x00, 0xFF, 0x84⟩, [], 0x8001, 2⟩,
    -- V76
    ⟨[0x0A], 0x8000, ⟨0x80, 0x00, 0x00, 0xFF, 0x04⟩, [], ⟨0x00, 0x00, 0x00, 0xFF, 0x07⟩, [], 0x8001, 2⟩,
    -- V77
    ⟨[0x16, 0xF0], 0x8000, ⟨0x00, 0x20, 0x00, 0xFF, 0x04⟩, [(0x0010, 0x40)], ⟨0x00, 0x20, 0x00, 0xFF, 0x84⟩, [(0x0010, 0x80)], 0x8002, 6⟩,
    -- V78
    ⟨[0x1E, 0xFF, 0x80], 0x8000, ⟨0x00, 0x01, 0x00, 0xFF, 0x04⟩, [(0x8100, 0x01)], ⟨0x00, 0x01, 0x00, 0xFF, 0x04⟩, [(0x8100, 0x02)], 0x8003, 7⟩] = true := by decide +kernel

/-- ROL: the vectors of `spec/95_test_vectors.md` named beside each row. -/
theorem test_vectors_rol : vectorsHold [
    -- V79
    ⟨[0x2A], 0x8000, ⟨0x40, 0x00, 0x00, 0xFF, 0x05⟩, [], ⟨0x81, 0x00, 0x00, 0xFF, 0x84⟩, [], 0x8001, 2⟩,
    -- V80
    ⟨[0x2A], 0x8000, ⟨0x80, 0x00, 0x00, 0xFF, 0x04⟩, [], ⟨0x00, 0x00, 0x00, 0xFF, 0x07⟩, [], 0x8001, 2⟩,
    -- V81
    ⟨[0x2E, 0x00, 0x02], 0x8000, ⟨0x00, 0x00, 0x00, 0xFF, 0x05⟩, [(0x0200, 0xFF)], ⟨0x00, 0x00, 0x00, 0xFF, 0x85⟩, [(0x0200, 0xFF)], 0x8003, 6⟩] = true := by decide +kernel

/-- ROR: the vectors of `spec/95_test_vectors.md` named beside each row. -/
theorem test_vectors_ror : vectorsHold [
    -- V82
    ⟨[0x6A], 0x8000, ⟨0x00, 0x00, 0x00, 0xFF, 0x05⟩, [], ⟨0x80, 0x00, 0x00, 0xFF, 0x84⟩, [], 0x8001, 2⟩,
    -- V83
    ⟨[0x6A], 0x8000, ⟨0x01, 0x00, 0x00, 0xFF, 0x04⟩, [], ⟨0x00, 0x00, 0x00, 0xFF, 0x07⟩, [], 0x8001, 2⟩,
    -- V84
    ⟨[0x76, 0x10], 0x8000, ⟨0x00, 0x01, 0x00, 0xFF, 0x05⟩, [(0x0011, 0x02)], ⟨0x00, 0x01, 0x00, 0xFF, 0x84⟩, [(0x0011, 0x81)], 0x8002, 6⟩,
    -- V85
    ⟨[0x7E, 0x00, 0x02], 0x8000, ⟨0x00, 0x05, 0x00, 0xFF, 0x04⟩, [(0x0205, 0x03)], ⟨0x00, 0x05, 0x00, 0xFF, 0x05⟩, [(0x0205, 0x01)], 0x8003, 7⟩] = true := by decide +kernel

/-- LDA: the vectors of `spec/95_test_vectors.md` named beside each row. -/
theorem test_vectors_lda : vectorsHold [
    -- V86
    ⟨[0xA9, 0x80], 0x8000, ⟨0x00, 0x00, 0x00, 0xFF, 0x04⟩, [], ⟨0x80, 0x00, 0x00, 0xFF, 0x84⟩, [], 0x8002, 2⟩,
    -- V87
    ⟨[0xA9, 0x00], 0x8000, ⟨0x12, 0x00, 0x00, 0xFF, 0xC5⟩, [], ⟨0x00, 0x00, 0x00, 0xFF, 0x47⟩, [], 0x8002, 2⟩,
    -- V88
    ⟨[0xB5, 0xF6], 0x8000, ⟨0x00, 0x20, 0x00, 0xFF, 0x04⟩, [(0x0016, 0x99), (0x0116, 0x11)], ⟨0x99, 0x20, 0x00, 0xFF, 0x84⟩, [], 0x8002, 4⟩,
    -- V89
    ⟨[0xBD, 0xFF, 0x80], 0x8000, ⟨0x00, 0x01, 0x00, 0xFF, 0x04⟩, [(0x8100, 0x42)], ⟨0x42, 0x01, 0x00, 0xFF, 0x04⟩, [], 0x8003, 5⟩,
    -- V90
    ⟨[0xB1, 0x10], 0x8000, ⟨0x00, 0x00, 0x01, 0xFF, 0x04⟩, [(0x0010, 0xFF), (0x0011, 0x80), (0x8100, 0x24)], ⟨0x24, 0x00, 0x01, 0xFF, 0x04⟩, [], 0x8002, 6⟩,
    -- V91
    ⟨[0xB1, 0xFF], 0x8000, ⟨0x00, 0x00, 0x00, 0xFF, 0x04⟩, [(0x0000, 0x12), (0x00FF, 0x34), (0x1234, 0x56)], ⟨0x56, 0x00, 0x00, 0xFF, 0x04⟩, [], 0x8002, 5⟩,
    -- V92
    ⟨[0xA1, 0xFF], 0x8000, ⟨0x00, 0x01, 0x00, 0xFF, 0x04⟩, [(0x0000, 0x00), (0x0001, 0x02), (0x0200, 0x77)], ⟨0x77, 0x01, 0x00, 0xFF, 0x04⟩, [], 0x8002, 6⟩,
    -- V93
    ⟨[0xAD, 0x34, 0x12], 0x8000, ⟨0x00, 0x00, 0x00, 0xFF, 0x04⟩, [(0x1234, 0x01)], ⟨0x01, 0x00, 0x00, 0xFF, 0x04⟩, [], 0x8003, 4⟩,
    -- V94
    ⟨[0xA5, 0x10], 0x8000, ⟨0x00, 0x00, 0x00, 0xFF, 0x04⟩, [(0x0010, 0xFE)], ⟨0xFE, 0x00, 0x00, 0xFF, 0x84⟩, [], 0x8002, 3⟩,
    -- V95
    ⟨[0xB9, 0x00, 0x02], 0x8000, ⟨0x00, 0x00, 0xFF, 0xFF, 0x04⟩, [(0x02FF, 0x03)], ⟨0x03, 0x00, 0xFF, 0xFF, 0x04⟩, [], 0x8003, 4⟩] = true := by decide +kernel

/-- LDX: the vectors of `spec/95_test_vectors.md` named beside each row. -/
theorem test_vectors_ldx : vectorsHold [
    -- V96
    ⟨[0xA2, 0x00], 0x8000, ⟨0x00, 0x05, 0x00, 0xFF, 0x04⟩, [], ⟨0x00, 0x00, 0x00, 0xFF, 0x06⟩, [], 0x8002, 2⟩,
    -- V97
    ⟨[0xB6, 0xF0], 0x8000, ⟨0x00, 0x00, 0x20, 0xFF, 0x04⟩, [(0x0010, 0x81)], ⟨0x00, 0x81, 0x20, 0xFF, 0x84⟩, [], 0x8002, 4⟩,
    -- V98
    ⟨[0xBE, 0xFF, 0x02], 0x8000, ⟨0x00, 0x00, 0x01, 0xFF, 0x04⟩, [(0x0300, 0x01)], ⟨0x00, 0x01, 0x01, 0xFF, 0x04⟩, [], 0x8003, 5⟩] = true := by decide +kernel

/-- LDY: the vectors of `spec/95_test_vectors.md` named beside each row. -/
theorem test_vectors_ldy : vectorsHold [
    -- V99
    ⟨[0xA0, 0xFF], 0x8000, ⟨0x00, 0x00, 0x00, 0xFF, 0x04⟩, [], ⟨0x00, 0x00, 0xFF, 0xFF, 0x84⟩, [], 0x8002, 2⟩,
    -- V100
    ⟨[0xB4, 0x10], 0x8000, ⟨0x00, 0xFF, 0x00, 0xFF, 0x04⟩, [(0x000F, 0x22)], ⟨0x00, 0xFF, 0x22, 0xFF, 0x04⟩, [], 0x8002, 4⟩,
    -- V101
    ⟨[0xBC, 0xFF, 0x02], 0x8000, ⟨0x00, 0x01, 0x00, 0xFF, 0x04⟩, [(0x0300, 0x00)], ⟨0x00, 0x01, 0x00, 0xFF, 0x06⟩, [], 0x8003, 5⟩] = true := by decide +kernel

/-- STA: the vectors of `spec/95_test_vectors.md` named beside each row. -/
theorem test_vectors_sta : vectorsHold [
    -- V102
    ⟨[0x8D, 0x00, 0x02], 0x8000, ⟨0x42, 0x00, 0x00, 0xFF, 0x04⟩, [], ⟨0x42, 0x00, 0x00, 0xFF, 0x04⟩, [(0x0200, 0x42)], 0x8003, 4⟩,
    -- V103
    ⟨[0x85, 0x10], 0x8000, ⟨0x00, 0x00, 0x00, 0xFF, 0x84⟩, [], ⟨0x00, 0x00, 0x00, 0xFF, 0x84⟩, [(0x0010, 0x00)], 0x8002, 3⟩,
    -- V104
    ⟨[0x95, 0xF0], 0x8000, ⟨0x11, 0x20, 0x00, 0xFF, 0x04⟩, [], ⟨0x11, 0x20, 0x00, 0xFF, 0x04⟩, [(0x0010, 0x11)], 0x8002, 4⟩,
    -- V105
    ⟨[0x9D, 0xFF, 0x02], 0x8000, ⟨0x11, 0x01, 0x00, 0xFF, 0x04⟩, [], ⟨0x11, 0x01, 0x00, 0xFF, 0x04⟩, [(0x0300, 0x11)], 0x8003, 5⟩,
    -- V106
    ⟨[0x99, 0x00, 0x02], 0x8000, ⟨0x11, 0x00, 0x01, 0xFF, 0x04⟩, [], ⟨0x11, 0x00, 0x01, 0xFF, 0x04⟩, [(0x0201, 0x11)], 0x8003, 5⟩,
    -- V107
    ⟨[0x81, 0x10], 0x8000, ⟨0x33, 0x04, 0x00, 0xFF, 0x04⟩, [(0x0014, 0x00), (0x0015, 0x03)], ⟨0x33, 0x04, 0x00, 0xFF, 0x04⟩, [(0x0300, 0x33)], 0x8002, 6⟩,
    -- V108
    ⟨[0x91, 0x10], 0x8000, ⟨0x33, 0x00, 0x10, 0xFF, 0x04⟩, [(0x0010, 0xF8), (0x0011, 0x02)], ⟨0x33, 0x00, 0x10, 0xFF, 0x04⟩, [(0x0308, 0x33)], 0x8002, 6⟩] = true := by decide +kernel

/-- STX: the vectors of `spec/95_test_vectors.md` named beside each row. -/
theorem test_vectors_stx : vectorsHold [
    -- V109
    ⟨[0x96, 0x10], 0x8000, ⟨0x00, 0x07, 0xF5, 0xFF, 0x04⟩, [], ⟨0x00, 0x07, 0xF5, 0xFF, 0x04⟩, [(0x0005, 0x07)], 0x8002, 4⟩,
    -- V110
    ⟨[0x86, 0x10], 0x8000, ⟨0x00, 0x07, 0x00, 0xFF, 0x04⟩, [], ⟨0x00, 0x07, 0x00, 0xFF, 0x04⟩, [(0x0010, 0x07)], 0x8002, 3⟩,
    -- V111
    ⟨[0x8E, 0x00, 0x02], 0x8000, ⟨0x00, 0x07, 0x00, 0xFF, 0x04⟩, [], ⟨0x00, 0x07, 0x00, 0xFF, 0x04⟩, [(0x0200, 0x07)], 0x8003, 4⟩] = true := by decide +kernel

/-- STY: the vectors of `spec/95_test_vectors.md` named beside each row. -/
theorem test_vectors_sty : vectorsHold [
    -- V112
    ⟨[0x8C, 0xFF, 0x00], 0x8000, ⟨0x00, 0x00, 0x09, 0xFF, 0x04⟩, [], ⟨0x00, 0x00, 0x09, 0xFF, 0x04⟩, [(0x00FF, 0x09)], 0x8003, 4⟩,
    -- V113
    ⟨[0x84, 0x10], 0x8000, ⟨0x00, 0x00, 0x09, 0xFF, 0x04⟩, [], ⟨0x00, 0x00, 0x09, 0xFF, 0x04⟩, [(0x0010, 0x09)], 0x8002, 3⟩,
    -- V114
    ⟨[0x94, 0xF0], 0x8000, ⟨0x00, 0x11, 0x09, 0xFF, 0x04⟩, [], ⟨0x00, 0x11, 0x09, 0xFF, 0x04⟩, [(0x0001, 0x09)], 0x8002, 4⟩] = true := by decide +kernel

/-- TAX: the vectors of `spec/95_test_vectors.md` named beside each row. -/
theorem test_vectors_tax : vectorsHold [
    -- V115
    ⟨[0xAA], 0x8000, ⟨0x90, 0x00, 0x00, 0xFF, 0x04⟩, [], ⟨0x90, 0x90, 0x00, 0xFF, 0x84⟩, [], 0x8001, 2⟩,
    -- V116
    ⟨[0xAA], 0x8000, ⟨0x00, 0x01, 0x00, 0xFF, 0x04⟩, [], ⟨0x00, 0x00, 0x00, 0xFF, 0x06⟩, [], 0x8001, 2⟩] = true := by decide +kernel

/-- TAY: the vectors of `spec/95_test_vectors.md` named beside each row. -/
theorem test_vectors_tay : vectorsHold [
    -- V117
    ⟨[0xA8], 0x8000, ⟨0x01, 0x00, 0x00, 0xFF, 0x04⟩, [], ⟨0x01, 0x00, 0x01, 0xFF, 0x04⟩, [], 0x8001, 2⟩] = true := by decide +kernel

/-- TXA: the vectors of `spec/95_test_vectors.md` named beside each row. -/
theorem test_vectors_txa : vectorsHold [
    -- V118
    ⟨[0x8A], 0x8000, ⟨0x05, 0x00, 0x00, 0xFF, 0x04⟩, [], ⟨0x00, 0x00, 0x00, 0xFF, 0x06⟩, [], 0x8001, 2⟩] = true := by decide +kernel

/-- TYA: the vectors of `spec/95_test_vectors.md` named beside each row. -/
theorem test_vectors_tya : vectorsHold [
    -- V119
    ⟨[0x98], 0x8000, ⟨0x00, 0x00, 0xFF, 0xFF, 0x04⟩, [], ⟨0xFF, 0x00, 0xFF, 0xFF, 0x84⟩, [], 0x8001, 2⟩] = true := by decide +kernel

/-- TSX: the vectors of `spec/95_test_vectors.md` named beside each row. -/
theorem test_vectors_tsx : vectorsHold [
    -- V120
    ⟨[0xBA], 0x8000, ⟨0x00, 0x00, 0x00, 0xFD, 0x04⟩, [], ⟨0x00, 0xFD, 0x00, 0xFD, 0x84⟩, [], 0x8001, 2⟩,
    -- V121
    ⟨[0xBA], 0x8000, ⟨0x00, 0x00, 0x00, 0x00, 0x04⟩, [], ⟨0x00, 0x00, 0x00, 0x00, 0x06⟩, [], 0x8001, 2⟩] = true := by decide +kernel

/-- TXS: the vectors of `spec/95_test_vectors.md` named beside each row. -/
theorem test_vectors_txs : vectorsHold [
    -- V122
    ⟨[0x9A], 0x8000, ⟨0x00, 0x00, 0x00, 0xFF, 0x84⟩, [], ⟨0x00, 0x00, 0x00, 0x00, 0x84⟩, [], 0x8001, 2⟩] = true := by decide +kernel

/-- PHA: the vectors of `spec/95_test_vectors.md` named beside each row. -/
theorem test_vectors_pha : vectorsHold [
    -- V123
    ⟨[0x48], 0x8000, ⟨0x5A, 0x00, 0x00, 0xFF, 0x04⟩, [], ⟨0x5A, 0x00, 0x00, 0xFE, 0x04⟩, [(0x01FF, 0x5A)], 0x8001, 3⟩,
    -- V124
    ⟨[0x48], 0x8000, ⟨0x5A, 0x00, 0x00, 0x00, 0x04⟩, [], ⟨0x5A, 0x00, 0x00, 0xFF, 0x04⟩, [(0x0100, 0x5A)], 0x8001, 3⟩] = true := by decide +kernel

/-- PHP: the vectors of `spec/95_test_vectors.md` named beside each row. -/
theorem test_vectors_php : vectorsHold [
    -- V125
    ⟨[0x08], 0x8000, ⟨0x00, 0x00, 0x00, 0xFD, 0xC3⟩, [], ⟨0x00, 0x00, 0x00, 0xFC, 0xC3⟩, [(0x01FD, 0xF3)], 0x8001, 3⟩,
    -- V126
    ⟨[0x08], 0x8000, ⟨0x00, 0x00, 0x00, 0xFF, 0x04⟩, [], ⟨0x00, 0x00, 0x00, 0xFE, 0x04⟩, [(0x01FF, 0x34)], 0x8001, 3⟩] = true := by decide +kernel

/-- PLA: the vectors of `spec/95_test_vectors.md` named beside each row. -/
theorem test_vectors_pla : vectorsHold [
    -- V127
    ⟨[0x68], 0x8000, ⟨0x00, 0x00, 0x00, 0xFE, 0x04⟩, [(0x01FF, 0x80)], ⟨0x80, 0x00, 0x00, 0xFF, 0x84⟩, [], 0x8001, 4⟩,
    -- V128
    ⟨[0x68], 0x8000, ⟨0x01, 0x00, 0x00, 0xFF, 0x04⟩, [(0x0100, 0x00)], ⟨0x00, 0x00, 0x00, 0x00, 0x06⟩, [], 0x8001, 4⟩] = true := by decide +kernel

/-- PLP: the vectors of `spec/95_test_vectors.md` named beside each row. -/
theorem test_vectors_plp : vectorsHold [
    -- V129
    ⟨[0x28], 0x8000, ⟨0x00, 0x00, 0x00, 0xFC, 0x00⟩, [(0x01FD, 0xF3)], ⟨0x00, 0x00, 0x00, 0xFD, 0xC3⟩, [], 0x8001, 4⟩,
    -- V130
    ⟨[0x28], 0x8000, ⟨0x00, 0x00, 0x00, 0xFE, 0x30⟩, [(0x01FF, 0x00)], ⟨0x00, 0x00, 0x00, 0xFF, 0x30⟩, [], 0x8001, 4⟩,
    -- V131
    ⟨[0x28], 0x8000, ⟨0x00, 0x00, 0x00, 0xFE, 0x04⟩, [(0x01FF, 0xFF)], ⟨0x00, 0x00, 0x00, 0xFF, 0xCF⟩, [], 0x8001, 4⟩] = true := by decide +kernel

/-- CLC: the vectors of `spec/95_test_vectors.md` named beside each row. -/
theorem test_vectors_clc : vectorsHold [
    -- V132
    ⟨[0x18], 0x8000, ⟨0x00, 0x00, 0x00, 0xFF, 0x05⟩, [], ⟨0x00, 0x00, 0x00, 0xFF, 0x04⟩, [], 0x8001, 2⟩] = true := by decide +kernel

/-- SEC: the vectors of `spec/95_test_vectors.md` named beside each row. -/
theorem test_vectors_sec : vectorsHold [
    -- V133
    ⟨[0x38], 0x8000, ⟨0x00, 0x00, 0x00, 0xFF, 0x04⟩, [], ⟨0x00, 0x00, 0x00, 0xFF, 0x05⟩, [], 0x8001, 2⟩] = true := by decide +kernel

/-- CLI: the vectors of `spec/95_test_vectors.md` named beside each row. -/
theorem test_vectors_cli : vectorsHold [
    -- V134
    ⟨[0x58], 0x8000, ⟨0x00, 0x00, 0x00, 0xFF, 0x04⟩, [], ⟨0x00, 0x00, 0x00, 0xFF, 0x00⟩, [], 0x8001, 2⟩] = true := by decide +kernel

/-- SEI: the vectors of `spec/95_test_vectors.md` named beside each row. -/
theorem test_vectors_sei : vectorsHold [
    -- V135
    ⟨[0x78], 0x8000, ⟨0x00, 0x00, 0x00, 0xFF, 0x00⟩, [], ⟨0x00, 0x00, 0x00, 0xFF, 0x04⟩, [], 0x8001, 2⟩] = true := by decide +kernel

/-- CLD: the vectors of `spec/95_test_vectors.md` named beside each row. -/
theorem test_vectors_cld : vectorsHold [
    -- V136
    ⟨[0xD8], 0x8000, ⟨0x00, 0x00, 0x00, 0xFF, 0x0C⟩, [], ⟨0x00, 0x00, 0x00, 0xFF, 0x04⟩, [], 0x8001, 2⟩] = true := by decide +kernel

/-- SED: the vectors of `spec/95_test_vectors.md` named beside each row. -/
theorem test_vectors_sed : vectorsHold [
    -- V137
    ⟨[0xF8], 0x8000, ⟨0x00, 0x00, 0x00, 0xFF, 0x04⟩, [], ⟨0x00, 0x00, 0x00, 0xFF, 0x0C⟩, [], 0x8001, 2⟩] = true := by decide +kernel

/-- CLV: the vectors of `spec/95_test_vectors.md` named beside each row. -/
theorem test_vectors_clv : vectorsHold [
    -- V138
    ⟨[0xB8], 0x8000, ⟨0x00, 0x00, 0x00, 0xFF, 0x44⟩, [], ⟨0x00, 0x00, 0x00, 0xFF, 0x04⟩, [], 0x8001, 2⟩] = true := by decide +kernel

/-- BPL: the vectors of `spec/95_test_vectors.md` named beside each row. -/
theorem test_vectors_bpl : vectorsHold [
    -- V141
    ⟨[0x10, 0x0E], 0x8000, ⟨0x00, 0x00, 0x00, 0xFF, 0x04⟩, [], ⟨0x00, 0x00, 0x00, 0xFF, 0x04⟩, [], 0x8010, 3⟩,
    -- V142
    ⟨[0x10, 0x0E], 0x8000, ⟨0x00, 0x00, 0x00, 0xFF, 0x84⟩, [], ⟨0x00, 0x00, 0x00, 0xFF, 0x84⟩, [], 0x8002, 2⟩] = true := by decide +kernel

/-- BMI: the vectors of `spec/95_test_vectors.md` named beside each row. -/
theorem test_vectors_bmi : vectorsHold [
    -- V143
    ⟨[0x30, 0x00], 0x8000, ⟨0x00, 0x00, 0x00, 0xFF, 0x84⟩, [], ⟨0x00, 0x00, 0x00, 0xFF, 0x84⟩, [], 0x8002, 3⟩,
    -- V144
    ⟨[0x30, 0x10], 0x8000, ⟨0x00, 0x00, 0x00, 0xFF, 0x04⟩, [], ⟨0x00, 0x00, 0x00, 0xFF, 0x04⟩, [], 0x8002, 2⟩] = true := by decide +kernel

/-- BVC: the vectors of `spec/95_test_vectors.md` named beside each row. -/
theorem test_vectors_bvc : vectorsHold [
    -- V145
    ⟨[0x50, 0x20], 0x80F0, ⟨0x00, 0x00, 0x00, 0xFF, 0x04⟩, [], ⟨0x00, 0x00, 0x00, 0xFF, 0x04⟩, [], 0x8112, 4⟩] = true := by decide +kernel

/-- BVS: the vectors of `spec/95_test_vectors.md` named beside each row. -/
theorem test_vectors_bvs : vectorsHold [
    -- V146
    ⟨[0x70, 0xFE], 0x8000, ⟨0x00, 0x00, 0x00, 0xFF, 0x44⟩, [], ⟨0x00, 0x00, 0x00, 0xFF, 0x44⟩, [], 0x8000, 3⟩] = true := by decide +kernel

/-- BCC: the vectors of `spec/95_test_vectors.md` named beside each row. -/
theorem test_vectors_bcc : vectorsHold [
    -- V147
    ⟨[0x90, 0xF0], 0x8010, ⟨0x00, 0x00, 0x00, 0xFF, 0x04⟩, [], ⟨0x00, 0x00, 0x00, 0xFF, 0x04⟩, [], 0x8002, 3⟩,
    -- V148
    ⟨[0x90, 0xF0], 0x8010, ⟨0x00, 0x00, 0x00, 0xFF, 0x05⟩, [], ⟨0x00, 0x00, 0x00, 0xFF, 0x05⟩, [], 0x8012, 2⟩] = true := by decide +kernel

/-- BCS: the vectors of `spec/95_test_vectors.md` named beside each row. -/
theorem test_vectors_bcs : vectorsHold [
    -- V149
    ⟨[0xB0, 0xFC], 0x8100, ⟨0x00, 0x00, 0x00, 0xFF, 0x05⟩, [], ⟨0x00, 0x00, 0x00, 0xFF, 0x05⟩, [], 0x80FE, 4⟩] = true := by decide +kernel

/-- BNE: the vectors of `spec/95_test_vectors.md` named beside each row. -/
theorem test_vectors_bne : vectorsHold [
    -- V150
    ⟨[0xD0, 0xFB], 0x8005, ⟨0x00, 0x00, 0x00, 0xFF, 0x04⟩, [], ⟨0x00, 0x00, 0x00, 0xFF, 0x04⟩, [], 0x8002, 3⟩,
    -- V151
    ⟨[0xD0, 0x80], 0x8000, ⟨0x00, 0x00, 0x00, 0xFF, 0x04⟩, [], ⟨0x00, 0x00, 0x00, 0xFF, 0x04⟩, [], 0x7F82, 4⟩] = true := by decide +kernel

/-- BEQ: the vectors of `spec/95_test_vectors.md` named beside each row. -/
theorem test_vectors_beq : vectorsHold [
    -- V152
    ⟨[0xF0, 0x04], 0x8000, ⟨0x00, 0x00, 0x00, 0xFF, 0x06⟩, [], ⟨0x00, 0x00, 0x00, 0xFF, 0x06⟩, [], 0x8006, 3⟩,
    -- V153
    ⟨[0xF0, 0x7F], 0x8000, ⟨0x00, 0x00, 0x00, 0xFF, 0x06⟩, [], ⟨0x00, 0x00, 0x00, 0xFF, 0x06⟩, [], 0x8081, 3⟩,
    -- V154
    ⟨[0xF0, 0x20], 0xFFF0, ⟨0x00, 0x00, 0x00, 0xFF, 0x06⟩, [], ⟨0x00, 0x00, 0x00, 0xFF, 0x06⟩, [], 0x0012, 4⟩] = true := by decide +kernel

/-- JMP: the vectors of `spec/95_test_vectors.md` named beside each row. -/
theorem test_vectors_jmp : vectorsHold [
    -- V155
    ⟨[0x4C, 0x34, 0x12], 0x8000, ⟨0x00, 0x00, 0x00, 0xFF, 0x04⟩, [], ⟨0x00, 0x00, 0x00, 0xFF, 0x04⟩, [], 0x1234, 3⟩,
    -- V156
    ⟨[0x6C, 0x20, 0x01], 0x8000, ⟨0x00, 0x00, 0x00, 0xFF, 0x04⟩, [(0x0120, 0x34), (0x0121, 0x12)], ⟨0x00, 0x00, 0x00, 0xFF, 0x04⟩, [], 0x1234, 5⟩,
    -- V157
    ⟨[0x6C, 0xFF, 0x12], 0x8000, ⟨0x00, 0x00, 0x00, 0xFF, 0x04⟩, [(0x1200, 0x56), (0x12FF, 0x78), (0x1300, 0x99)], ⟨0x00, 0x00, 0x00, 0xFF, 0x04⟩, [], 0x5678, 5⟩] = true := by decide +kernel

/-- JSR: the vectors of `spec/95_test_vectors.md` named beside each row. -/
theorem test_vectors_jsr : vectorsHold [
    -- V158
    ⟨[0x20, 0x00, 0x90], 0x8000, ⟨0x00, 0x00, 0x00, 0xFF, 0x04⟩, [], ⟨0x00, 0x00, 0x00, 0xFD, 0x04⟩, [(0x01FF, 0x80), (0x01FE, 0x02)], 0x9000, 6⟩,
    -- V159
    ⟨[0x20, 0x00, 0x90], 0x8000, ⟨0x00, 0x00, 0x00, 0x00, 0x04⟩, [], ⟨0x00, 0x00, 0x00, 0xFE, 0x04⟩, [(0x0100, 0x80), (0x01FF, 0x02)], 0x9000, 6⟩] = true := by decide +kernel

/-- RTS: the vectors of `spec/95_test_vectors.md` named beside each row. -/
theorem test_vectors_rts : vectorsHold [
    -- V160
    ⟨[0x60], 0x8000, ⟨0x00, 0x00, 0x00, 0xFD, 0x04⟩, [(0x01FE, 0x02), (0x01FF, 0x80)], ⟨0x00, 0x00, 0x00, 0xFF, 0x04⟩, [], 0x8003, 6⟩,
    -- V161
    ⟨[0x60], 0x8000, ⟨0x00, 0x00, 0x00, 0xFD, 0x04⟩, [(0x01FE, 0xFF), (0x01FF, 0xFF)], ⟨0x00, 0x00, 0x00, 0xFF, 0x04⟩, [], 0x0000, 6⟩] = true := by decide +kernel

/-- BRK: the vectors of `spec/95_test_vectors.md` named beside each row. -/
theorem test_vectors_brk : vectorsHold [
    -- V162
    ⟨[0x00, 0xEA], 0x8000, ⟨0x00, 0x00, 0x00, 0xFF, 0x00⟩, [(0xFFFE, 0x00), (0xFFFF, 0x90)], ⟨0x00, 0x00, 0x00, 0xFC, 0x04⟩, [(0x01FF, 0x80), (0x01FE, 0x02), (0x01FD, 0x30)], 0x9000, 7⟩,
    -- V163
    ⟨[0x00], 0x8000, ⟨0x00, 0x00, 0x00, 0xFF, 0xCF⟩, [(0xFFFE, 0x00), (0xFFFF, 0x90)], ⟨0x00, 0x00, 0x00, 0xFC, 0xCF⟩, [(0x01FF, 0x80), (0x01FE, 0x02), (0x01FD, 0xFF)], 0x9000, 7⟩] = true := by decide +kernel

/-- RTI: the vectors of `spec/95_test_vectors.md` named beside each row. -/
theorem test_vectors_rti : vectorsHold [
    -- V164
    ⟨[0x40], 0x8000, ⟨0x00, 0x00, 0x00, 0xFC, 0x04⟩, [(0x01FD, 0x30), (0x01FE, 0x02), (0x01FF, 0x80)], ⟨0x00, 0x00, 0x00, 0xFF, 0x00⟩, [], 0x8002, 6⟩,
    -- V165
    ⟨[0x40], 0x8000, ⟨0x00, 0x00, 0x00, 0xFC, 0x04⟩, [(0x01FD, 0xC3), (0x01FE, 0x34), (0x01FF, 0x12)], ⟨0x00, 0x00, 0x00, 0xFF, 0xC3⟩, [], 0x1234, 6⟩] = true := by decide +kernel

/-- NOP: the vectors of `spec/95_test_vectors.md` named beside each row. -/
theorem test_vectors_nop : vectorsHold [
    -- V166
    ⟨[0xEA], 0x8000, ⟨0x00, 0x00, 0x00, 0xFF, 0xC3⟩, [], ⟨0x00, 0x00, 0x00, 0xFF, 0xC3⟩, [], 0x8001, 2⟩] = true := by decide +kernel

/-! Errors and the lifecycle (section 2.8 of the vectors). -/

/-- The registers of the vector baseline, with this A. -/
def baseline (a : Byte) : Regs := ⟨a, 0x00, 0x00, 0xFF, 0x04⟩

/-- V167: the step reports the byte and the address. -/
theorem test_v167_decode_error :
    (hostCall .step (fixture 0x8000 (baseline 0x11) [(0x8000, 0x02)])).1 =
      .raised (.decodeError 0x02 0x8000) := by decide +kernel

/-- L-b: the registers, PC and cycles are as before, one read was made, and a second step is refused. -/
theorem test_lb_after_decode_error :
    let t := (hostCall .step (fixture 0x8000 (baseline 0x11) [(0x8000, 0x02)])).2
    t.mode = .faulted (.decodeError 0x02 0x8000) ∧ t.pc = 0x8000 ∧ t.a = 0x11 ∧ t.cycles = 0 ∧
      t.bus.log = [.read 0x8000 0x02] ∧ hostCall .step t = (.refused .notPowered, t) ∧
      (hostCall .readPc t).1 = .word 0x8000 := by decide +kernel

/-- V169: a byte that is a NOP on some silicon is an error too. -/
theorem test_v169_decode_error :
    (hostCall .step (fixture 0x8000 (baseline 0x00) [(0x8000, 0x80)])).1 =
      .raised (.decodeError 0x80 0x8000) := by decide +kernel

/-- L-a: before `power()`, a step and an accessor are refused. -/
theorem test_la_unpowered :
    (hostCall .step (State.unpowered Bus.ram Params.hardware)).1 = .refused .notPowered ∧
      (hostCall .readA (State.unpowered Bus.ram Params.hardware)).1 = .refused .notPowered := by decide +kernel

/-- L-c: `power()` with [0xFFFC] = 0x34, [0xFFFD] = 0x12. -/
theorem test_lc_power :
    let t := (hostCall .power (fixture 0x8000 (baseline 0x11) [(0xFFFC, 0x34), (0xFFFD, 0x12)])).2
    regsOf t = ⟨0x00, 0x00, 0x00, 0x00, 0x04⟩ ∧ t.pc = 0x1234 ∧ t.cycles = 0 ∧ t.mode = .running ∧
      t.bus.log = [.read 0xFFFD 0x12, .read 0xFFFC 0x34] := by decide +kernel

/-- L-d: a bus that raises on a write to 0x0200, and `STA $0200`. -/
theorem test_ld_bus_error :
    let s := fixture 0x8000 (baseline 0x42) [(0x8000, 0x8D), (0x8001, 0x00), (0x8002, 0x02)]
    let t := (hostCall .step (s.setBus { s.bus with windows := ⟨0x0200, 1, .cells, .raises 7⟩ :: s.bus.windows })).2
    t.mode = .faulted (.busError 7) ∧ t.pc = 0x8000 ∧ t.cycles = 0 ∧
      t.bus.log = [.writeRaised 0x0200 0x42 7, .read 0x8002 0x02, .read 0x8001 0x00, .read 0x8000 0x8D] ∧
      t.bus.cells = s.bus.cells := by decide +kernel

/-- L-e: `setA` has no flag effect; `forceStatus` writes all eight bits, PHP pushes 0xFF and PLP of 0x00 gives 0x30. -/
theorem test_le_setters :
    (hostCall (.setA 0x00) (fixture 0x8000 (baseline 0x11) [])).2.p = 0x04 ∧
      (let t := (hostCall (.forceStatus 0xFF) (fixture 0x8000 (baseline 0x00) [(0x8000, 0x08)])).2
       t.p = 0xFF ∧ nextMeets (step t) (fun u => u.stored 0x01FF == 0xFF)) ∧
      nextMeets (step (fixture 0x8000 ⟨0x00, 0x00, 0x00, 0xFE, 0xFF⟩ [(0x8000, 0x28)])) (fun u => u.p == 0x30) := by
  decide +kernel

/-- R263: the reset vector bytes (0x00, 0x80) set PC to 0x8000. -/
theorem test_r263_reset_vector :
    nextMeets (power (State.unpowered { Bus.ram with cells := [(0xFFFD, 0x80)] } Params.hardware))
      (fun t => t.pc == 0x8000) = true := by decide +kernel

/-- R66: `STA $8001` at 0x8000 overwrites its own operand byte and executes as fetched. -/
theorem test_r66_store_over_own_operand :
    nextMeets (step (fixture 0x8000 (baseline 0x42) [(0x8000, 0x8D), (0x8001, 0x01), (0x8002, 0x80)]))
      (fun t => t.stored 0x8001 == 0x42 && t.pc == 0x8003) = true := by decide +kernel

/-- R58: an instruction whose operand lies at 0xFFFF continues at 0x0000. -/
theorem test_r58_operand_wraps :
    nextMeets (step (fixture 0xFFFE (baseline 0x00) [(0xFFFE, 0xAD), (0xFFFF, 0x10), (0x0000, 0x02), (0x0210, 0x77)]))
      (fun t => t.a == 0x77 && t.pc == 0x0001) = true := by decide +kernel

/-- D1: an opcode taken out of `OPCODE_SET` raises a DecodeError. -/
theorem test_d1_excluded_opcode :
    let s := fixture 0x8000 (baseline 0x00) [(0x8000, 0xEA)]
    (hostCall .step { s with params := { s.params with excludedOpcodes := [0xEA] } }).1 =
      .raised (.decodeError 0xEA 0x8000) := by decide +kernel

/-- R55, R222: the accesses of BRK, newest first; the padding byte is not read. -/
theorem test_brk_accesses :
    nextMeets (step (fixture 0x8000 ⟨0x00, 0x00, 0x00, 0xFF, 0x00⟩ [(0xFFFF, 0x90)])) (fun t =>
      decide (t.bus.log = [.read 0xFFFF 0x90, .read 0xFFFE 0x00, .write 0x01FD 0x30, .write 0x01FE 0x02,
        .write 0x01FF 0x80, .read 0x8000 0x00])) = true := by decide +kernel

/-! The fixed names: the table's words, and the first step after reset. -/

theorem test_decodeTableWord_lda : decodeTableWord 8 0xA9 = some (.ldaImm 0x00) := by decide +kernel

theorem test_decodeTableWord_jmp : decodeTableWord 24 0x12344C = some (.jmpAbs 0x1234) := by decide +kernel

theorem test_decodeTableWord_undefined : decodeTableWord 8 0x02 = none := by decide +kernel

theorem test_withFetchWord_runs :
    nextMeets (step (State.reset.withFetchWord 16 0x80A9)) (fun t => t.a == 0x80 && t.pc == 0x0002) = true := by
  decide +kernel

/-! The assembler's forms (R98). -/

theorem test_asm_zero_page_preferred : assemble 0x8000 .lda (.plain 0x0044) = .ok (.ldaZp 0x44) := by decide +kernel

theorem test_asm_absolute : assemble 0x8000 .lda (.x 0x4400) = .ok (.ldaAbsX 0x4400) := by decide +kernel

theorem test_asm_jmp_absolute : assemble 0x8000 .jmp (.plain 0x0044) = .ok (.jmpAbs 0x0044) := by decide +kernel

/-- P1: `BNE loop` at 0x800A to 0x8004 is offset 0xF8. -/
theorem test_asm_label : assemble 0x800A .bne (.label 0x8004) = .ok (.bne 0xF8) := by decide +kernel

theorem test_asm_label_out_of_range : assemble 0x8000 .bne (.label 0x9000) = .error .operandOutOfRange := by
  decide +kernel

theorem test_asm_text :
    instrText 0x8000 (.ldaIndY 0x44) = "LDA ($44),Y" ∧ instrText 0x8000 (.aslA) = "ASL A" ∧
      instrText 0x8000 (.ldaImm 0x44) = "LDA #$44" ∧ instrText 0x8000 (.jmpInd 0x4400) = "JMP ($4400)" := by
  decide +kernel

/-! Witnesses: for every statement with hypotheses, a state and operands that meet each clause's hypotheses together. -/

/-- Plain memory, at the far ends: PC at 0xFFFE, X = Y = 0xFF, and SP = 0x00, where a push wraps. -/
def plain : State := fixture 0xFFFE ⟨0x80, 0xFF, 0xFF, 0x00, 0xFF⟩ [(0x0000, 0x10)]

/-- As `plain`, on a bus that raises error 7 at every access. -/
def raising : State := { plain with bus := ⟨[], [⟨0, 65536, .raises 7, .raises 7⟩], []⟩ }

/-- As `plain`, on a bus whose reads answer and whose writes raise error 7. -/
def readOnly : State := { plain with bus := ⟨[], [⟨0, 65536, .cells, .raises 7⟩], []⟩ }

/-- As `plain`, on a bus that answers at 0x12FF alone. -/
def oneCell : State := { plain with bus := ⟨[], [⟨0x12FF, 1, .cells, .cells⟩, ⟨0, 65536, .raises 7, .raises 7⟩], []⟩ }

/-- The two clauses of `ReadsThen` are met by an instruction of the operation. -/
def ReadsWitnessed (op : Operation) (i : Instr) : Prop :=
  i.operation = op ∧ (∃ r m b, readOperand i.operand plain plain.bus = .ok (r, m) b) ∧
    ∃ e b, readOperand i.operand raising raising.bus = .raised e b

theorem witness_AdcAddsWithCarry : ReadsWitnessed .adc (.adcAbsX 0xFFFF) := ⟨rfl, ⟨_, _, _, rfl⟩, _, _, rfl⟩
theorem witness_SbcSubtractsWithBorrow : ReadsWitnessed .sbc (.sbcIndY 0xFF) := ⟨rfl, ⟨_, _, _, rfl⟩, _, _, rfl⟩
theorem witness_ComparesSetFlags :
    ReadsWitnessed .cmp (.cmpIndX 0x01) ∧ ReadsWitnessed .cpx (.cpxAbs 0xFFFF) ∧ ReadsWitnessed .cpy (.cpyZp 0xFF) :=
  ⟨⟨rfl, ⟨_, _, _, rfl⟩, _, _, rfl⟩, ⟨rfl, ⟨_, _, _, rfl⟩, _, _, rfl⟩, ⟨rfl, ⟨_, _, _, rfl⟩, _, _, rfl⟩⟩
theorem witness_LogicOnAccumulator :
    ReadsWitnessed .eor (.eorAbsY 0xFF01) ∧ ReadsWitnessed .and (.andZpX 0xFF) ∧ ReadsWitnessed .ora (.oraAbs 0x0000) :=
  ⟨⟨rfl, ⟨_, _, _, rfl⟩, _, _, rfl⟩, ⟨rfl, ⟨_, _, _, rfl⟩, _, _, rfl⟩, ⟨rfl, ⟨_, _, _, rfl⟩, _, _, rfl⟩⟩
theorem witness_BitTestsMemory : ReadsWitnessed .bit (.bitZp 0xFF) := ⟨rfl, ⟨_, _, _, rfl⟩, _, _, rfl⟩
theorem witness_LoadsWriteRegister :
    ReadsWitnessed .lda (.ldaIndX 0x01) ∧ ReadsWitnessed .ldx (.ldxZpY 0x01) ∧ ReadsWitnessed .ldy (.ldyAbsX 0xFF01) :=
  ⟨⟨rfl, ⟨_, _, _, rfl⟩, _, _, rfl⟩, ⟨rfl, ⟨_, _, _, rfl⟩, _, _, rfl⟩, ⟨rfl, ⟨_, _, _, rfl⟩, _, _, rfl⟩⟩

/-- The clauses of `ModifiesMemory` are met by an instruction of the operation: both accesses answer, the write raises,
the read raises. -/
def ModifyWitnessed (op : Operation) (i : Instr) (a : Word) (v : Byte) : Prop :=
  i.operation = op ∧ i.operand ≠ .accumulator ∧
    (∃ w b b1, plain.bus.read a = .ok w b ∧ b.write a v = .ok () b1) ∧
    (∃ w b e b1, readOnly.bus.read a = .ok w b ∧ b.write a v = .raised e b1) ∧
    ∃ e b, raising.bus.read a = .raised e b

theorem witness_IncDecModifyMemory :
    ModifyWitnessed .inc (.incAbsX 0xFF01) 0x0000 0x11 ∧ ModifyWitnessed .dec (.decZpX 0x01) 0x0000 0x0F :=
  ⟨⟨rfl, by decide, ⟨_, _, _, rfl, rfl⟩, ⟨_, _, _, _, rfl, rfl⟩, _, _, rfl⟩,
    ⟨rfl, by decide, ⟨_, _, _, rfl, rfl⟩, ⟨_, _, _, _, rfl, rfl⟩, _, _, rfl⟩⟩
theorem witness_ShiftsMoveBits :
    ModifyWitnessed .lsr (.lsrZp 0x00) 0x0000 0x08 ∧ ModifyWitnessed .asl (.aslAbs 0x0000) 0x0000 0x20 ∧
      (Instr.lsrA.operation = .lsr ∧ Instr.lsrA.operand = .accumulator) ∧
      (Instr.aslA.operation = .asl ∧ Instr.aslA.operand = .accumulator) :=
  ⟨⟨rfl, by decide, ⟨_, _, _, rfl, rfl⟩, ⟨_, _, _, _, rfl, rfl⟩, _, _, rfl⟩,
    ⟨rfl, by decide, ⟨_, _, _, rfl, rfl⟩, ⟨_, _, _, _, rfl, rfl⟩, _, _, rfl⟩, ⟨rfl, rfl⟩, rfl, rfl⟩
theorem witness_RotatesGoThroughCarry :
    ModifyWitnessed .rol (.rolZpX 0x01) 0x0000 0x21 ∧ ModifyWitnessed .ror (.rorAbsX 0xFF01) 0x0000 0x88 ∧
      (Instr.rolA.operation = .rol ∧ Instr.rolA.operand = .accumulator) ∧
      (Instr.rorA.operation = .ror ∧ Instr.rorA.operand = .accumulator) :=
  ⟨⟨rfl, by decide, ⟨_, _, _, rfl, rfl⟩, ⟨_, _, _, _, rfl, rfl⟩, _, _, rfl⟩,
    ⟨rfl, by decide, ⟨_, _, _, rfl, rfl⟩, ⟨_, _, _, _, rfl, rfl⟩, _, _, rfl⟩, ⟨rfl, rfl⟩, rfl, rfl⟩

theorem witness_StoresWriteMemory :
    (∃ a c b b1, operandAddress (.indirectY 0xFF) plain plain.bus = .ok (a, c) b ∧ b.write a plain.a = .ok () b1) ∧
      (∃ a c b e b1, operandAddress (.zeroPageY 0xFF) readOnly readOnly.bus = .ok (a, c) b ∧
        b.write a readOnly.x = .raised e b1) ∧
      (∃ a c b b1, operandAddress (.zeroPageX 0xFF) plain plain.bus = .ok (a, c) b ∧ b.write a plain.y = .ok () b1) ∧
      ∃ e b, operandAddress (.indirectX 0xFF) raising raising.bus = .raised e b :=
  ⟨⟨_, _, _, _, rfl, rfl⟩, ⟨_, _, _, _, _, rfl, rfl⟩, ⟨_, _, _, _, rfl, rfl⟩, _, _, rfl⟩

theorem witness_PushesWriteStack :
    (∃ b, plain.bus.write plain.stackAddr plain.a = .ok () b) ∧
      (∃ e b, readOnly.bus.write readOnly.stackAddr readOnly.a = .raised e b) ∧
      (∃ b, plain.bus.write plain.stackAddr (plain.p ||| 0x30) = .ok () b) ∧
      ∃ e b, readOnly.bus.write readOnly.stackAddr (readOnly.p ||| 0x30) = .raised e b :=
  ⟨⟨_, rfl⟩, ⟨_, _, rfl⟩, ⟨_, rfl⟩, _, _, rfl⟩
theorem witness_PullsReadStack :
    (∃ v b, plain.bus.read (State.stackAddr { plain with sp := plain.sp + 1 }) = .ok v b) ∧
      ∃ e b, raising.bus.read (State.stackAddr { raising with sp := raising.sp + 1 }) = .raised e b :=
  ⟨⟨_, _, rfl⟩, _, _, rfl⟩
theorem witness_BranchesTakeTheirCondition :
    [branchTaken plain .bpl, branchTaken plain .bmi, branchTaken plain .bvc, branchTaken plain .bvs,
      branchTaken plain .bcc, branchTaken plain .bcs, branchTaken plain .bne, branchTaken plain .beq] =
    [some false, some true, some false, some true, some false, some true, some false, some true] := by decide
theorem witness_JmpGoesToTarget :
    (∃ l b1 h b2, plain.bus.read 0x12FF = .ok l b1 ∧ b1.read (concat (hi 0x12FF) (lo 0x12FF + 1)) = .ok h b2) ∧
      (∃ e b, raising.bus.read 0x12FF = .raised e b) ∧
      ∃ l b1 e b2, oneCell.bus.read 0x12FF = .ok l b1 ∧
        b1.read (concat (hi 0x12FF) (lo 0x12FF + 1)) = .raised e b2 :=
  ⟨⟨_, _, _, _, rfl, rfl⟩, ⟨_, _, rfl⟩, _, _, _, _, rfl, rfl⟩

/-- The map of the fixture says memory at every address. -/
theorem plain_isRam (a : Word) : plain.bus.IsRam a := by
  have h : (⟨0, 65536, .cells, .cells⟩ : Window).holds a = true := by
    simp only [Window.holds, Bool.and_eq_true, decide_eq_true_eq]
    exact ⟨Nat.zero_le _, by have := a.isLt; omega⟩
  constructor
  · show Bus.readRule ⟨_, [⟨0, 65536, .cells, .cells⟩], _⟩ a = _
    simp only [Bus.readRule, List.find?_cons, h]
  · show Bus.writeRule ⟨_, [⟨0, 65536, .cells, .cells⟩], _⟩ a = _
    simp only [Bus.writeRule, List.find?_cons, h]

theorem witness_JsrPushesReturnAddress :
    (∃ b1 b2, plain.bus.write plain.stackAddr (hi (plain.pc + 2)) = .ok () b1 ∧
      b1.write (State.stackAddr { plain with sp := plain.sp - 1 }) (lo (plain.pc + 2)) = .ok () b2) ∧
      (Memory.wf plain.bus.cells = true ∧ plain.bus.IsRam plain.stackAddr ∧
        plain.bus.IsRam (State.stackAddr { plain with sp := plain.sp - 1 })) ∧
      ∃ e b, pushWord (readOnly.pc + 2) readOnly readOnly.bus = .raised e b :=
  ⟨⟨_, _, rfl, rfl⟩, ⟨rfl, plain_isRam _, plain_isRam _⟩, _, _, rfl⟩
theorem witness_RtsReturnsPastTheCall :
    (∃ l b1 h b2, plain.bus.read (State.stackAddr { plain with sp := plain.sp + 1 }) = .ok l b1 ∧
      b1.read (State.stackAddr { plain with sp := plain.sp + 2 }) = .ok h b2) ∧
      ∃ e b, pullWord raising raising.bus = .raised e b := ⟨⟨_, _, _, _, rfl, rfl⟩, _, _, rfl⟩
theorem witness_BrkTakesTheTrap :
    (∃ b1 b2 b3 l b4 h b5, plain.bus.write plain.stackAddr (hi (plain.pc + 2)) = .ok () b1 ∧
      b1.write (State.stackAddr { plain with sp := plain.sp - 1 }) (lo (plain.pc + 2)) = .ok () b2 ∧
      b2.write (State.stackAddr { plain with sp := plain.sp - 2 }) (plain.p ||| 0x30) = .ok () b3 ∧
      b3.read plain.params.brkVector = .ok l b4 ∧ b4.read (plain.params.brkVector + 1) = .ok h b5) ∧
      (Memory.wf plain.bus.cells = true ∧ ∀ n : Byte, plain.bus.IsRam (concat plain.params.stackPage n)) ∧
      ∃ e b, enterTrap (readOnly.pc + 2) readOnly.params.brkVector readOnly readOnly.bus = .raised e b :=
  ⟨⟨_, _, _, _, _, _, _, rfl, rfl, rfl, rfl, rfl⟩, ⟨rfl, fun _ => plain_isRam _⟩, _, _, rfl⟩
theorem witness_RtiRestoresStatusAndPc :
    (∃ v b1 l b2 h b3, plain.bus.read (State.stackAddr { plain with sp := plain.sp + 1 }) = .ok v b1 ∧
      b1.read (State.stackAddr { plain with sp := plain.sp + 2 }) = .ok l b2 ∧
      b2.read (State.stackAddr { plain with sp := plain.sp + 3 }) = .ok h b3) ∧
      ∃ e b, returnFromTrap raising raising.bus = .raised e b := ⟨⟨_, _, _, _, _, _, rfl, rfl, rfl⟩, _, _, rfl⟩

/-- X = 0xFF and z = 0xFF: the sum wraps, and the pointer's second byte; then a pointer at 0x00FF. -/
theorem witness_ZeroPageIndexWraps :
    ((0x00FE : Word).toNat = ((0xFF : Byte).toNat + plain.x.toNat) % 256 ∧
      (0x00FF : Word).toNat = ((0x00FE : Word).toNat + 1) % 256) ∧
      ((0x00FF : Word).toNat = (0xFF : Byte).toNat ∧ (0x0000 : Word).toNat = ((0x00FF : Word).toNat + 1) % 256) := by
  decide
theorem witness_IndexedAddressesWrapAndCross :
    ∃ w c, plain.bus.readPair (zext 0xFF) (zext (0xFF + 1)) = .ok w c := ⟨_, _, rfl⟩
theorem witness_StackWrapsInItsPage :
    plain.params = Params.hardware ∧ (∃ b, plain.bus.write plain.stackAddr 0x42 = .ok () b) ∧
      (0x01 : Byte).toNat = (plain.sp.toNat + 1) % 256 ∧
      ∃ v b, plain.bus.read (State.stackAddr { plain with sp := 0x01 }) = .ok v b := ⟨rfl, ⟨_, rfl⟩, rfl, _, _, rfl⟩

/-- A Running core that completes instructions: the premise of the statements about every completing instruction. -/
theorem witness_FlagsWrittenOnlyAsTabled :
    (∃ t, exec (.adcImm 0x01) plain = .next t) ∧ writesFlag (Instr.adcImm 0x01).operation .i = false := ⟨⟨_, rfl⟩, rfl⟩
theorem witness_PlaceholderBitsAreTheHosts :
    (HostCall.step ≠ .power ∧ ∀ v, HostCall.step ≠ .forceStatus v) ∧ (∃ t, power plain = .next t) ∧
      (∃ t, exec .php plain = .next t) ∧ ∃ t, exec .brk plain = .next t :=
  ⟨⟨by decide, by intro v h; cases h⟩, ⟨_, rfl⟩, ⟨_, rfl⟩, _, rfl⟩
theorem witness_PcAdvancesByLength :
    (∃ t, exec (.staAbsY 0xFFFF) plain = .next t) ∧ controlFlow (Instr.staAbsY 0xFFFF).operation = false :=
  ⟨⟨_, rfl⟩, rfl⟩
theorem witness_CyclesChargeBaseAndPenalty : ∃ t, exec (.ldaAbsX 0xFFFF) plain = .next t := ⟨_, rfl⟩
theorem witness_AccessesAreTheLogicalSequence :
    (∃ i b, fetch plain = .ok (.instr i) b) ∧ (∃ t, exec (.incAbsX 0xFF01) plain = .next t) ∧
      ∃ t, step plain = .next t := ⟨⟨_, _, rfl⟩, ⟨_, rfl⟩, _, rfl⟩

/-- A Running core whose next opcode is 0x02. -/
def undefinedNext : State := fixture 0xFFFF (baseline 0x00) [(0xFFFF, 0x02)]

theorem witness_NopDoesNothing :
    CompletesWith .nop (fun s t => t = s) ∧ ((0x02 : Byte) ∈ undefinedOpcodes ∧ (0xFF : Byte) ∈ undefinedOpcodes) ∧
      undefinedNext.mode = .running ∧ ∃ b, undefinedNext.bus.read undefinedNext.pc = .ok 0x02 b :=
  ⟨fun s => ⟨s, rfl, rfl⟩, by decide, rfl, _, rfl⟩

theorem witness_StepKeepsMemoryCanonical :
    (plain.Inv ∧ ∃ t, step plain = .next t) ∧
      (undefinedNext.Inv ∧ ∃ op a left, step undefinedNext = .fault (.decodeError op a left)) ∧
      (raising.Inv ∧ ∃ e left, step raising = .fault (.busError e left)) :=
  ⟨⟨rfl, _, rfl⟩, ⟨rfl, _, _, _, rfl⟩, rfl, _, _, rfl⟩
theorem witness_HostRunsKeepMapParamsHistory : plain.Inv := rfl
theorem witness_EncodeInvertsDecode :
    decode [0x6C, 0xFF, 0xFF] = .ok (.jmpInd 0xFFFF, []) ∧ decode [0xEA, 0x01] = .ok (.nop, [0x01]) ∧
      decode [0xFE, 0x00, 0x00] = .ok (.incAbsX 0x0000, []) := ⟨rfl, rfl, rfl⟩
theorem witness_UndefinedOpcodesAreTheListed105 : (0x02 : Byte) ∈ undefinedOpcodes := by decide
theorem witness_UndefinedOpcodeRaisesDecodeError :
    undefinedNext.mode = .running ∧ (∃ b, undefinedNext.bus.read undefinedNext.pc = .ok 0x02 b) ∧
      (0x02 : Byte) ∈ undefinedOpcodes := ⟨rfl, ⟨_, rfl⟩, by decide⟩

/-- A Running core on `STA $8001` at 0x8000. -/
def storeNext : State := fixture 0x8000 (baseline 0x42) [(0x8000, 0x8D), (0x8001, 0x01), (0x8002, 0x80)]

theorem witness_StepRunsTheDecodedInstruction :
    (storeNext.mode = .running ∧ (∃ b, storeNext.bus.readAll storeNext.pc 3 = .ok [0x8D, 0x01, 0x80] b) ∧
      decode [0x8D, 0x01, 0x80] = .ok (.staAbs 0x8001, []) ∧
      ∀ op ∈ ([0x8D, 0x01, 0x80] : List Byte).head?, storeNext.params.excludedOpcodes.contains op = false) ∧
    ∀ k : Nat, k < [(0x8D : Byte), 0x01].length →
      storeNext.bus.readRule (0x8000 + BitVec.ofNat 16 k) = .cells ∧
        [(0x8D : Byte), 0x01][k]? = some (storeNext.bus.stored (0x8000 + BitVec.ofNat 16 k)) := by
  refine ⟨⟨rfl, ⟨_, rfl⟩, rfl, fun op _ => rfl⟩, fun k hk => ?_⟩
  have : k = 0 ∨ k = 1 := by simp only [List.length] at hk; omega
  rcases this with rfl | rfl <;> exact ⟨rfl, rfl⟩
theorem witness_StepRefusedWithoutPower :
    (State.unpowered Bus.ram Params.hardware).mode = .unpowered ∧
      HostCall.step ∈ [HostCall.step, .readA, .readX, .readY, .readStatus, .readPc, .readCycles] := ⟨rfl, by decide⟩
theorem witness_FaultIsKeptUntilPower :
    ({ plain with mode := .faulted (.busError 7) } : State).mode = .faulted (.busError 7) ∧
      HostCall.power ∉ [HostCall.step, .setA 0x01] ∧
      (∃ u, power { plain with mode := .faulted (.busError 7) } = .next u) ∧
      (hostCall .step raising).1 = .raised (.busError 7) ∧
      (hostCall .step undefinedNext).1 = .raised (.decodeError 0x02 0xFFFF) :=
  ⟨rfl, by decide, ⟨_, rfl⟩, rfl, rfl⟩
theorem witness_UnpoweredRegistersHoldNoValue :
    let s := State.unpowered Bus.ram Params.hardware
    s.mode = .unpowered ∧ ({ s with a := 0x55 } : State).mode = .unpowered ∧ s.bus = ({ s with a := 0x55 } : State).bus ∧
      s.params = ({ s with a := 0x55 } : State).params ∧ (hostRun [.power] s).2.mode ≠ .unpowered :=
  ⟨rfl, rfl, rfl, rfl, by decide +kernel⟩
theorem witness_PowerOnResetsEverything :
    (∃ l b1 h b2, plain.bus.read plain.params.resetVector = .ok l b1 ∧
      b1.read (plain.params.resetVector + 1) = .ok h b2) ∧
      ∃ e b, raising.bus.readWord raising.params.resetVector = .raised e b := ⟨⟨_, _, _, _, rfl, rfl⟩, _, _, rfl⟩
theorem witness_AccessorsReportTheState :
    plain.mode ≠ .unpowered ∧ (State.unpowered Bus.ram Params.hardware).mode = .unpowered ∧
      HostCall.readA ∈ [HostCall.readA, .readX, .readY, .readStatus, .readPc, .readCycles] :=
  ⟨by decide, rfl, by decide⟩
theorem witness_OnlyPowerAndStepMovePcAndSp :
    HostCall.setA 0x01 ≠ .power ∧ HostCall.setA 0x01 ≠ .step ∧
      ∀ v, HostCall.readA ≠ .setA v ∧ HostCall.readA ≠ .setX v ∧ HostCall.readA ≠ .setY v ∧
        HostCall.readA ≠ .forceStatus v :=
  ⟨by decide, by decide, fun v => ⟨(by intro h; cases h), (by intro h; cases h), (by intro h; cases h),
    by intro h; cases h⟩⟩
theorem witness_RaisedStepCommitsNothing :
    (∃ f, step raising = .fault f) ∧ ∃ f, step undefinedNext = .fault f := ⟨⟨_, rfl⟩, _, rfl⟩

/-- A Running core whose next opcode, NOP, is out of its `OPCODE_SET`. -/
def excludedNext : State :=
  { fixture 0x8000 (baseline 0x00) [(0x8000, 0xEA)] with
    params := { Params.hardware with excludedOpcodes := [0xEA] } }

/-- `STA $8001` at 0x8000 on a bus whose reads answer and whose writes raise error 7: the error is at the last of four
accesses. -/
def romStore : State := { storeNext with bus := { storeNext.bus with windows := [⟨0, 65536, .cells, .raises 7⟩] } }

theorem witness_ErrorsInAccessOrder :
    (State.unpowered Bus.ram Params.hardware).mode ≠ .running ∧
      (raising.mode = .running ∧ ∃ e b, raising.bus.read raising.pc = .raised e b) ∧
      (∃ op a left, step undefinedNext = .fault (.decodeError op a left)) ∧
      (excludedNext.mode = .running ∧ (∃ b, excludedNext.bus.read excludedNext.pc = .ok 0xEA b) ∧
        excludedNext.params.excludedOpcodes.contains 0xEA = true) ∧
      (undefinedNext.mode = .running ∧ (∃ b, undefinedNext.bus.read undefinedNext.pc = .ok 0x02 b) ∧
        (0x02 : Byte) ∈ undefinedOpcodes) ∧
      (∃ e left, step romStore = .fault (.busError e left)) ∧ ∃ t, step plain = .next t :=
  ⟨by decide, ⟨rfl, _, _, rfl⟩, ⟨_, _, _, rfl⟩, ⟨rfl, ⟨_, rfl⟩, rfl⟩, ⟨rfl, ⟨_, rfl⟩, by decide⟩, ⟨_, _, rfl⟩, _, rfl⟩
theorem witness_RunningStepIsNeverRefused : ∃ r, step (State.unpowered Bus.ram Params.hardware) = .refused r :=
  ⟨_, rfl⟩
theorem witness_EveryInstructionCompletes : plain.bus.NeverRaises := rfl
theorem witness_SpWrittenOnlyByStackOperations :
    (∃ t, exec .tsx plain = .next t) ∧ writesSp Instr.tsx.operation = false := ⟨⟨_, rfl⟩, rfl⟩
theorem witness_PairsOfTheTable : AddressMode.immediate ∉ Operation.sta.modes := by decide
theorem witness_JsrThenRtsReturns :
    plain.Inv ∧ ∀ n : Byte, plain.bus.IsRam (concat plain.params.stackPage n) := ⟨rfl, fun _ => plain_isRam _⟩
theorem witness_PushThenPullRestores :
    plain.Inv ∧ ∀ n : Byte, plain.bus.IsRam (concat plain.params.stackPage n) := ⟨rfl, fun _ => plain_isRam _⟩
theorem witness_BrkThenRtiReturns :
    plain.bus.NeverRaises ∧ plain.Inv ∧ ∀ n : Byte, plain.bus.IsRam (concat plain.params.stackPage n) :=
  ⟨rfl, rfl, fun _ => plain_isRam _⟩
theorem witness_BranchLabelsEncode :
    branchOffset 0xFFFE 0x007F = some 0x7F ∧ branchOffset 0x0000 0xFF82 = some 0x80 ∧
      branchOffset 0xFFFE 0x0080 = none ∧ branchOffset 0x0000 0xFF81 = none := by decide
theorem witness_MemoryReadsBackWhatWasWritten :
    Memory.wf plain.bus.cells = true ∧ plain.bus.IsRam 0xFFFF ∧ (0x0000 : Word) ≠ 0xFFFF ∧ plain.bus.IsRam 0x0000 ∧
      ∃ w d, plain.bus.read 0x0000 = .ok w d := ⟨rfl, plain_isRam _, by decide, plain_isRam _, _, _, rfl⟩

end Sys2Proof.Tests
end

/-! The statements about the registers: what power-on hides, and what a completing instruction leaves in P, SP and
PC, said once for every operation (`StepFrame`). -/

namespace Sys2Proof.Machine

/-! What an Unpowered core holds in its registers. -/

/-- Two cores that no host call can tell apart: the same state, or two Unpowered cores that share the bus and the
parameters, whatever their registers hold (R37). -/
inductive Alike : State → State → Prop
  | same (s : State) : Alike s s
  | unpowered {s t : State} (hs : s.mode = .unpowered) (ht : t.mode = .unpowered) (hb : s.bus = t.bus)
      (hp : s.params = t.params) : Alike s t

theorem Alike.eq_of_powered {s t : State} (h : Alike s t) (hs : s.mode ≠ .unpowered) : s = t := by
  cases h with
  | same => rfl
  | unpowered hs' => exact absurd hs' hs

/-- A call replies the same to both cores and leaves them alike. -/
def RepliesAlike (r q : HostReply × State) : Prop := r.1 = q.1 ∧ Alike r.2 q.2

/-- `power()` depends on the bus and the parameters alone, and overwrites every register when it succeeds (R260). -/
theorem power_repliesAlike {s t : State} (hb : s.bus = t.bus) (hp : s.params = t.params) :
    RepliesAlike (hostCall .power s) (hostCall .power t) := by
  cases hr : t.bus.readWord t.params.resetVector with
  | ok w b =>
    have hw : poweredState s w b = poweredState t w b := by simp only [poweredState, hp]
    simp only [RepliesAlike, hostCall, power, hb, hp, hr, runCall, hw]
    exact ⟨trivial, .same _⟩
  | raised e b =>
    simp only [RepliesAlike, hostCall, power, hb, hp, hr, runCall]
    exact ⟨trivial, .unpowered rfl rfl rfl hp⟩
  | noCase =>
    have hc : (t.bus.readWord t.params.resetVector).HasCase := t.bus.readPair_hasCase _ _
    rw [hr] at hc
    exact hc.elim

/-- An Unpowered core refuses `step()` and is left as it is (R234). -/
theorem hostCall_step_unpowered {s : State} (h : s.mode = .unpowered) :
    hostCall .step s = (.refused .notPowered, s) := by
  simp only [hostCall, step, h, runCall]

/-- An Unpowered core refuses a read accessor, whatever value it would answer, and is left as it is (R234). -/
theorem readCall_access_unpowered {α : Type} {s : State} (h : s.mode = .unpowered) (wrap : α → HostReply) (v : α) :
    readCall s wrap (s.access v) = (.refused .notPowered, s) := by
  simp only [State.access, h, readCall]

/-- No host call tells two cores apart that are alike. -/
theorem hostCall_repliesAlike (c : HostCall) {s t : State} (h : Alike s t) :
    RepliesAlike (hostCall c s) (hostCall c t) := by
  cases h with
  | same => exact ⟨rfl, .same _⟩
  | unpowered hs ht hb hp =>
    have refusedBoth {r q : HostReply × State} (hr : r = (.refused .notPowered, s))
        (hq : q = (.refused .notPowered, t)) : RepliesAlike r q := by
      subst hr hq
      exact ⟨rfl, .unpowered hs ht hb hp⟩
    cases c with
    | power => exact power_repliesAlike hb hp
    | step => exact refusedBoth (hostCall_step_unpowered hs) (hostCall_step_unpowered ht)
    | readA | readX | readY | readStatus | readPc | readCycles =>
      exact refusedBoth (readCall_access_unpowered hs ..) (readCall_access_unpowered ht ..)
    | setA | setX | setY | forceStatus => exact ⟨rfl, .unpowered hs ht hb hp⟩

/-- No list of host calls tells two cores apart that are alike. -/
theorem hostRun_alike (cs : List HostCall) {s t : State} (h : Alike s t) :
    (hostRun cs s).1 = (hostRun cs t).1 ∧ Alike (hostRun cs s).2 (hostRun cs t).2 := by
  induction cs generalizing s t with
  | nil => exact ⟨rfl, h⟩
  | cons c cs ih =>
    obtain ⟨hreply, hleft⟩ := hostCall_repliesAlike c h
    obtain ⟨hreplies, hend⟩ := ih hleft
    exact ⟨congrArg₂ List.cons hreply hreplies, hend⟩

/-- Settles O42: the relation `Alike` holds at the start, every call keeps it, and out of Unpowered it is equality. -/
theorem unpoweredRegistersHoldNoValue : Obligations.UnpoweredRegistersHoldNoValue := by
  intro cs s t hs ht hb hp
  obtain ⟨hreplies, hend⟩ := hostRun_alike cs (.unpowered hs ht hb hp)
  exact ⟨hreplies, hend.eq_of_powered⟩

/-! Each flag computation leaves every flag alone that it does not name. -/

theorem setFlag_keeps (p : Byte) {f g : Flag} (h : g ≠ f) : testFlag (setFlag p f) g = testFlag p g := by simp [h]

theorem clearFlag_keeps (p : Byte) {f g : Flag} (h : g ≠ f) : testFlag (clearFlag p f) g = testFlag p g := by simp [h]

theorem setZN_keeps (p v : Byte) {g : Flag} (h : g ∉ [Flag.n, .z]) : testFlag (setZN p v) g = testFlag p g := by
  cases g <;> simp at h ⊢

theorem sumFlags_keeps (p a m : Byte) (c : Bool) {g : Flag} (h : g ∉ [Flag.n, .v, .z, .c]) :
    testFlag (sumFlags p a m c) g = testFlag p g := by
  cases g <;> simp at h ⊢

theorem compareFlags_keeps (p t m : Byte) {g : Flag} (h : g ∉ [Flag.n, .z, .c]) :
    testFlag (compareFlags p t m) g = testFlag p g := by
  cases g <;> simp at h ⊢

theorem shiftFlags_keeps (p r : Byte) (out : Bool) {g : Flag} (h : g ∉ [Flag.n, .z, .c]) :
    testFlag (shiftFlags p out r) g = testFlag p g := by
  cases g <;> simp at h ⊢

theorem bitFlags_keeps (p a m : Byte) {g : Flag} (h : g ∉ [Flag.n, .v, .z]) :
    testFlag (bitFlags p a m) g = testFlag p g := by
  cases g <;> simp at h ⊢

theorem pulledStatus_keeps (p v : Byte) {g : Flag} (h : g ∉ [Flag.n, .v, .d, .i, .z, .c]) :
    testFlag (pulledStatus p v) g = testFlag p g := by
  cases g <;> simp at h ⊢

/-! What a completing instruction leaves in P, SP and PC. -/

/-- The flags and SP of `u` differ from those of `s` only as the operation's rows of R33 and R23 allow. -/
structure RegisterFrame (op : Operation) (s u : State) : Prop where
  flags : ∀ f, writesFlag op f = false → testFlag u.p f = testFlag s.p f
  sp : writesSp op = false → u.sp = s.sp

/-- What every completing step from `s` to `t` keeps: the frame of P and SP, and the rule of PC (R112). -/
structure StepFrame (op : Operation) (o : Operand) (s t : State) : Prop extends RegisterFrame op s t where
  pc : controlFlow op = false → t.pc = s.pc + BitVec.ofNat 16 o.length

theorem RegisterFrame.refl (op : Operation) (s : State) : RegisterFrame op s s := ⟨fun _ _ => rfl, fun _ => rfl⟩

/-- An operation that may write SP, with the frame of its flags. -/
theorem RegisterFrame.of_writesSp {op : Operation} {s u : State} (hsp : writesSp op = true)
    (hf : ∀ f, writesFlag op f = false → testFlag u.p f = testFlag s.p f) : RegisterFrame op s u :=
  ⟨hf, fun h => absurd (hsp.symm.trans h) Bool.noConfusion⟩

/-- The end of a step with no control transfer. -/
theorem RegisterFrame.commit {op : Operation} {s u : State} (h : RegisterFrame op s u) {o o' : Operand}
    (ho : o.mode = o'.mode) (base pen : Nat) (b : Bus) :
    StepFrame op o s ((Machine.commit o' base pen none s u).setBus b) :=
  ⟨⟨h.flags, h.sp⟩, fun _ => by simp [Operand.length, ho]⟩

/-- PC is a control-flow operation's own to write. -/
theorem StepFrame.of_controlFlow {op : Operation} {o : Operand} {s t : State} (hc : controlFlow op = true)
    (h : RegisterFrame op s t) : StepFrame op o s t :=
  ⟨h, fun h' => absurd (hc.symm.trans h') Bool.noConfusion⟩

/-- The end of a step of a control-flow operation. -/
theorem RegisterFrame.transfer {op : Operation} {s u : State} (h : RegisterFrame op s u)
    (hc : controlFlow op = true) (o o' : Operand) (base pen : Nat) (target : Option Word) (b : Bus) :
    StepFrame op o s ((Machine.commit o' base pen target s u).setBus b) :=
  .of_controlFlow hc ⟨h.flags, h.sp⟩

section Rows

variable {op : Operation} {o : Operand} {base : Nat} {s t : State}

theorem readRow_frame {pen : Resolved → Nat} {f : Byte → State → State} (h : readRow o base pen f s = .next t)
    (hf : ∀ m, RegisterFrame op s (f m s)) : StepFrame op o s t := by
  obtain ⟨_, m, _, -, rfl⟩ := readRow_next h
  exact (hf m).commit rfl ..

theorem storeRow_frame {v : Byte} (h : storeRow o base v s = .next t) : StepFrame op o s t := by
  obtain ⟨_, _, _, -, -, rfl⟩ := storeRow_next h
  exact (RegisterFrame.refl op s).commit rfl ..

/-- A read-modify-write instruction writes P as `f` says, and never SP. -/
theorem modifyRow_frame {f : Byte → State → Byte × Byte} (h : modifyRow o base f s = .next t)
    (hf : ∀ m g, writesFlag op g = false → testFlag (f m s).2 g = testFlag s.p g) : StepFrame op o s t := by
  obtain ⟨_, m, _, u, _, -, hstore, rfl⟩ := modifyRow_next h
  have hsp : u.sp = s.sp := by
    obtain ⟨-, rfl, -⟩ | ⟨_, -, rfl, -⟩ := store_ok hstore
    · rfl
    · rfl
  have hu : RegisterFrame op s (u.setP (f m s).2) := ⟨hf m, fun _ => hsp⟩
  exact hu.commit rfl ..

theorem impliedRow_frame {f : State → State} (h : impliedRow base f s = .next t) (hm : o.mode = .implied)
    (hf : RegisterFrame op s (f s)) : StepFrame op o s t := by
  obtain rfl := impliedRow_next h
  exact hf.commit (o' := .implied) hm ..

theorem pushRow_frame {v : Byte} (h : pushRow base v s = .next t) (hm : o.mode = .implied)
    (hsp : writesSp op = true) : StepFrame op o s t := by
  obtain ⟨_, -, rfl⟩ := pushRow_next h
  have hu : RegisterFrame op s (s.setSp (s.sp - 1)) := .of_writesSp hsp fun _ _ => rfl
  exact hu.commit hm ..

theorem pullRow_frame {f : Byte → State → State} (h : pullRow base f s = .next t) (hm : o.mode = .implied)
    (hsp : writesSp op = true) (hf : ∀ v u g, writesFlag op g = false → testFlag (f v u).p g = testFlag u.p g) :
    StepFrame op o s t := by
  obtain ⟨v, _, -, rfl⟩ := pullRow_next h
  have hu : RegisterFrame op s (f v (s.setSp (s.sp + 1))) := .of_writesSp hsp (hf v _)
  exact hu.commit hm ..

theorem branchRow_frame {off : Byte} {taken : Bool} (h : branchRow off taken s = .next t)
    (hc : controlFlow op = true) : StepFrame op o s t := by
  obtain ⟨-, -, -, hsp, hp, -, -⟩ := branchRow_next h
  exact .of_controlFlow hc ⟨fun _ _ => by rw [hp], fun _ => hsp⟩

theorem jumpRow_frame (h : jumpRow o base s = .next t) (hc : controlFlow op = true) : StepFrame op o s t := by
  obtain ⟨_, _, -, rfl⟩ := jumpRow_next h
  exact (RegisterFrame.refl op s).transfer hc ..

end Rows

/-- A step of a call, return or trap: SP and PC are its own to write, and P changes as its last state says. -/
theorem finish_frame {op : Operation} {α : Type} {o : Operand} {base : Nat} {s t : State} {r : BusResult α}
    {target : α → Word} {left : α → State}
    (h : finish s (r.andThen fun v b => .ok (commit o base 0 (some (target v)) s (left v)) b) = .next t)
    (hsp : writesSp op = true) (hc : controlFlow op = true)
    (hf : ∀ v b, r = .ok v b → ∀ g, writesFlag op g = false → testFlag (left v).p g = testFlag s.p g) :
    StepFrame op o s t := by
  obtain ⟨u, b, hr, rfl⟩ := finish_next h
  obtain ⟨v, c, hv, hk⟩ := BusResult.andThen_ok hr
  cases hk
  have hu : RegisterFrame op s (left v) := .of_writesSp hsp (hf v _ hv)
  exact hu.transfer hc ..

theorem relative_of_mode {o : Operand} (h : o.mode = .relative) : ∃ off, o = .relative off := by
  cases o with
  | relative off => exact ⟨off, rfl⟩
  | _ => cases h

/-- Every operation keeps what `StepFrame` says, in each mode it is defined with (R102). -/
theorem operationStep_frame {op : Operation} {o : Operand} {base : Nat} {s t : State} (hm : o.mode ∈ op.modes)
    (h : operationStep op o base s = .next t) : StepFrame op o s t := by
  unfold operationStep at h
  cases op with
  | adc | sbc =>
    exact readRow_frame h fun _ => ⟨fun _ hg => sumFlags_keeps _ _ _ _ (of_decide_eq_false hg), fun _ => rfl⟩
  | cmp | cpx | cpy =>
    exact readRow_frame h fun _ => ⟨fun _ hg => compareFlags_keeps _ _ _ (of_decide_eq_false hg), fun _ => rfl⟩
  | bit => exact readRow_frame h fun _ => ⟨fun _ hg => bitFlags_keeps _ _ _ (of_decide_eq_false hg), fun _ => rfl⟩
  | eor | and | ora | lda | ldx | ldy =>
    exact readRow_frame h fun _ => ⟨fun _ hg => setZN_keeps _ _ (of_decide_eq_false hg), fun _ => rfl⟩
  | inc | dec => exact modifyRow_frame h fun _ _ hg => setZN_keeps _ _ (of_decide_eq_false hg)
  | lsr | asl | rol | ror => exact modifyRow_frame h fun _ _ hg => shiftFlags_keeps _ _ _ (of_decide_eq_false hg)
  | sta | stx | sty => exact storeRow_frame h
  | inx | iny | dex | dey | tax | tay | txa | tya | tsx =>
    exact impliedRow_frame h (List.mem_singleton.1 hm)
      ⟨fun _ hg => setZN_keeps _ _ (of_decide_eq_false hg), fun _ => rfl⟩
  | clc | cli | cld | clv =>
    exact impliedRow_frame h (List.mem_singleton.1 hm)
      ⟨fun _ hg => clearFlag_keeps _ (of_decide_eq_false hg), fun _ => rfl⟩
  | sec | sei | sed =>
    exact impliedRow_frame h (List.mem_singleton.1 hm)
      ⟨fun _ hg => setFlag_keeps _ (of_decide_eq_false hg), fun _ => rfl⟩
  | nop => exact impliedRow_frame h (List.mem_singleton.1 hm) (.refl _ s)
  | txs => exact impliedRow_frame h (List.mem_singleton.1 hm) (.of_writesSp rfl fun _ _ => rfl)
  | pha | php => exact pushRow_frame h (List.mem_singleton.1 hm) rfl
  | pla =>
    exact pullRow_frame h (List.mem_singleton.1 hm) rfl fun _ _ _ hg => setZN_keeps _ _ (of_decide_eq_false hg)
  | plp =>
    exact pullRow_frame h (List.mem_singleton.1 hm) rfl
      fun _ _ _ hg => pulledStatus_keeps _ _ (of_decide_eq_false hg)
  | bpl | bmi | bvc | bvs | bcc | bcs | bne | beq =>
    obtain ⟨off, rfl⟩ := relative_of_mode (List.mem_singleton.1 hm)
    exact branchRow_frame h rfl
  | jmp => exact jumpRow_frame h rfl
  | jsr =>
    obtain ⟨_, _, hr, rfl⟩ := finish_next h
    obtain ⟨_, _, -, hk⟩ := BusResult.andThen_ok hr
    obtain ⟨_, _, hpush, hk⟩ := BusResult.andThen_ok hk
    obtain ⟨rfl, -⟩ := pushWord_ok hpush
    cases hk
    have hu : RegisterFrame .jsr s (s.setSp (s.sp - 2)) := .of_writesSp rfl fun _ _ => rfl
    exact hu.transfer rfl ..
  | rts =>
    refine finish_frame h rfl rfl fun _ _ hpull _ _ => ?_
    obtain ⟨hleft, -⟩ := pullWord_ok hpull
    rw [hleft, State.setSp_p]
  | brk =>
    refine finish_frame h rfl rfl fun _ _ htrap _ hg => ?_
    obtain ⟨hleft, -⟩ := enterTrap_ok htrap
    rw [hleft, State.setP_p]
    exact setFlag_keeps _ (of_decide_eq_false hg)
  | rti =>
    refine finish_frame h rfl rfl fun _ _ hret _ hg => ?_
    obtain ⟨_, _, -, hleft, -⟩ := returnFromTrap_ok hret
    rw [hleft, State.setP_p]
    exact pulledStatus_keeps _ _ (of_decide_eq_false hg)

/-- Every completing instruction keeps what `StepFrame` says. -/
theorem exec_frame {i : Instr} {s t : State} (h : exec i s = .next t) : StepFrame i.operation i.operand s t :=
  operationStep_frame (mode_mem_modes i) ((exec_eq_operationStep i s).symm.trans h)

/-- Settles O26: the flags of the frame of every instruction. -/
theorem flagsWrittenOnlyAsTabled : Obligations.FlagsWrittenOnlyAsTabled :=
  fun _ _ _ f h hf => (exec_frame h).flags f hf

/-- Settles O52: SP in the frame of every instruction. -/
theorem spWrittenOnlyByStackOperations : Obligations.SpWrittenOnlyByStackOperations :=
  fun _ _ _ h => (exec_frame h).sp

/-- Settles O28: PC in the frame of every instruction, and its length from its operand bytes. -/
theorem pcAdvancesByLength : Obligations.PcAdvancesByLength := by
  intro i s t h hc
  refine ⟨?_, ?_⟩
  · rw [(exec_frame h).pc hc, length_eq i, BitVec.toNat_add, BitVec.toNat_ofNat, Nat.add_mod_mod]
  · rw [length_eq i, operand_bytes_length, Operand.length, AddressMode.length, Nat.add_comm]

/-! Bits 4 and 5 of P. -/

/-- The placeholder bits are columns of no row of R33. -/
theorem writesFlag_placeholder (op : Operation) {f : Flag} (hf : f = .b ∨ f = .u) : writesFlag op f = false := by
  obtain rfl | rfl := hf
  · cases op <;> rfl
  · cases op <;> rfl

theorem readCall_state {α : Type} (s : State) (wrap : α → HostReply) (r : Except Refusal α) :
    (readCall s wrap r).2 = s := by
  cases r <;> rfl

/-- A step leaves a flag alone that no instruction writes, whether it completes, raises or is refused. -/
theorem hostCall_step_keeps_flag {f : Flag} (hf : ∀ op, writesFlag op f = false) (s : State) :
    (hostCall .step s).2.flag f = s.flag f := by
  simp only [hostCall]
  cases h : step s with
  | next t =>
    obtain ⟨-, i, b, -, -, hexec⟩ := step_next h
    exact (exec_frame hexec).flags f (hf _)
  | fault r =>
    obtain ⟨-, b, -, ⟨op, rfl, -⟩ | ⟨e, rfl⟩⟩ := step_fault h
    · rfl
    · rfl
  | refused r => rfl

/-- Only `power()` and `forceStatus` change a flag that no instruction writes. -/
theorem hostCall_keeps_flag {f : Flag} (hf : ∀ op, writesFlag op f = false) {c : HostCall} (hpower : c ≠ .power)
    (hforce : ∀ v, c ≠ .forceStatus v) (s : State) : (hostCall c s).2.flag f = s.flag f := by
  cases c with
  | power => exact absurd rfl hpower
  | forceStatus v => exact absurd rfl (hforce v)
  | step => exact hostCall_step_keeps_flag hf s
  | readA | readX | readY | readStatus | readPc | readCycles =>
    exact congrArg (fun u => State.flag u f) (readCall_state ..)
  | setA | setX | setY => rfl

theorem Bus.read_log {b c : Bus} {a : Word} {v : Byte} (h : b.read a = .ok v c) : c.log = .read a v :: b.log := by
  obtain ⟨-, rfl⟩ := Bus.read_ok_iff.1 h
  rfl

theorem Bus.write_log {b c : Bus} {a : Word} {v : Byte} {u : Unit} (h : b.write a v = .ok u c) :
    c.log = .write a v :: b.log := by
  obtain ⟨-, rfl⟩ := Bus.write_ok_iff.1 h
  rfl

theorem Bus.readWord_log {b c : Bus} {a w : Word} (h : b.readWord a = .ok w c) :
    ∃ l k, c.log = [.read (a + 1) k, .read a l] ++ b.log := by
  obtain ⟨l, d, hl, hk⟩ := BusResult.andThen_ok h
  obtain ⟨k, e, hh, hk⟩ := BusResult.andThen_ok hk
  cases hk
  exact ⟨l, k, by rw [Bus.read_log hh, Bus.read_log hl]; rfl⟩

/-- A completing PHP makes one access, the write of the pushed copy of P (R191, D9). -/
theorem exec_php_log {s t : State} (h : exec .php s = .next t) :
    t.bus.log = .write s.stackAddr (pushedStatus s.p) :: s.bus.log := by
  obtain ⟨b, hw, rfl⟩ := pushRow_next h
  exact Bus.write_log hw

/-- A push of a Word writes its high byte, then its low byte below it. -/
theorem pushWord_log {w : Word} {s t : State} {b c : Bus} (h : pushWord w s b = .ok t c) :
    c.log = [.write (stackSlot s (s.sp - 1)) (lo w), .write (stackSlot s s.sp) (hi w)] ++ b.log := by
  obtain ⟨-, d, hhi, hlo⟩ := pushWord_ok h
  rw [Bus.write_log hlo, Bus.write_log hhi]
  rfl

/-- A completing BRK pushes the return address and the pushed copy of P, then reads the vector (R222, D11). -/
theorem exec_brk_log {s t : State} (h : exec .brk s = .next t) : ∃ l k : Byte,
    t.bus.log =
      [.read (s.params.brkVector + 1) k, .read s.params.brkVector l, .write (stackSlot s (s.sp - 2)) (pushedStatus s.p),
        .write (stackSlot s (s.sp - 1)) (lo (s.pc + 2)), .write (stackSlot s s.sp) (hi (s.pc + 2))] ++ s.bus.log := by
  obtain ⟨u, b, hr, rfl⟩ := finish_next h
  obtain ⟨⟨w, v⟩, e, htrap, hk⟩ := BusResult.andThen_ok hr
  cases hk
  obtain ⟨-, c, d, hret, hstatus, hvector⟩ := enterTrap_ok htrap
  obtain ⟨l, k, hlog⟩ := Bus.readWord_log hvector
  refine ⟨l, k, ?_⟩
  rw [State.setBus_bus, hlog, Bus.write_log hstatus, pushWord_log hret]
  rfl

/-- Settles O27: no instruction writes bits 4 and 5, so only `power()` and `forceStatus` do; PHP and BRK push them
set. -/
theorem placeholderBitsAreTheHosts : Obligations.PlaceholderBitsAreTheHosts := by
  refine ⟨fun c s hpower hforce => ⟨?_, ?_⟩, fun s t h => ?_, fun s v => ⟨rfl, rfl⟩,
    fun s t => exec_php_log, fun s t => exec_brk_log, testFlag_pushedStatus⟩
  · exact hostCall_keeps_flag (fun op => writesFlag_placeholder op (.inl rfl)) hpower hforce s
  · exact hostCall_keeps_flag (fun op => writesFlag_placeholder op (.inr rfl)) hpower hforce s
  · obtain ⟨w, b, -, rfl⟩ := power_next h
    exact ⟨testFlag_setFlag .., testFlag_setFlag ..⟩

end Sys2Proof.Machine

/-! The memory behind the bus, and the accesses made to it: what every host call keeps of them, the order of a step's
accesses, and where zero-page and stack addresses lie. -/

namespace Sys2Proof.Machine

/-! What every host call keeps. -/

/-- A state reached by accesses to the bus: the same parameters, and a bus that `Bus.Reaches` describes. -/
structure State.LeadsTo (s t : State) : Prop where
  bus : s.bus.Reaches t.bus
  params : t.params = s.params

theorem State.LeadsTo.refl (s : State) : s.LeadsTo s := ⟨.refl s.bus, rfl⟩

theorem State.LeadsTo.trans {s t u : State} (h : s.LeadsTo t) (k : t.LeadsTo u) : s.LeadsTo u :=
  ⟨h.bus.trans k.bus, k.params.trans h.params⟩

theorem State.LeadsTo.inv {s t : State} (h : s.LeadsTo t) (hs : s.Inv) : t.Inv := h.bus.wf hs

/-- The state a fault leaves (R236). -/
def Fault.left : Fault → State
  | .decodeError _ _ left => left
  | .busError _ left => left

theorem step_next_leadsTo {s t : State} (h : step s = .next t) : s.LeadsTo t := by
  obtain ⟨-, i, b, -, hfetch, hexec⟩ := step_next h
  obtain ⟨hbus, -, hparams⟩ := exec_next hexec
  exact ⟨hfetch.reaches.trans hbus, hparams⟩

theorem step_fault_leadsTo {s : State} {f : Fault} (h : step s = .fault f) : s.LeadsTo f.left := by
  obtain ⟨-, b, hb, ⟨op, rfl, -⟩ | ⟨e, rfl⟩⟩ := step_fault h
  · exact ⟨hb, rfl⟩
  · exact ⟨hb, rfl⟩

theorem power_next_leadsTo {s t : State} (h : power s = .next t) : s.LeadsTo t := by
  obtain ⟨w, b, hr, rfl⟩ := power_next h
  exact ⟨((s.bus.readPair_readsTo _ _).ok hr).reaches, rfl⟩

/-- A power-on that faults: an error of the vector reads, which leaves the core Unpowered (R260, D14). -/
theorem power_fault {s : State} {f : Fault} (h : power s = .fault f) :
    ∃ e b, s.bus.readWord s.params.resetVector = .raised e b ∧
      f = .busError e ((s.setBus b).setMode .unpowered) := by
  unfold power at h
  cases hr : s.bus.readWord s.params.resetVector with
  | ok w b => rw [hr] at h; cases h
  | raised e b => rw [hr] at h; cases h; exact ⟨e, b, rfl, rfl⟩
  | noCase => rw [hr] at h; cases h

theorem power_fault_leadsTo {s : State} {f : Fault} (h : power s = .fault f) : s.LeadsTo f.left := by
  obtain ⟨e, b, hr, rfl⟩ := power_fault h
  exact ⟨((s.bus.readPair_readsTo _ _).raised hr).reaches, rfl⟩

/-- A call that runs the machine goes on from the next state, from the state a fault left, or from where it was. -/
theorem runCall_leadsTo {s : State} {o : Host.Outcome State Fault Refusal} (hnext : ∀ t, o = .next t → s.LeadsTo t)
    (hfault : ∀ f, o = .fault f → s.LeadsTo f.left) : s.LeadsTo (runCall s o).2 := by
  cases o with
  | next t => exact hnext t rfl
  | fault f =>
    cases f with
    | decodeError op a left => exact hfault _ rfl
    | busError e left => exact hfault _ rfl
  | refused r => exact .refl s

theorem hostCall_leadsTo (c : HostCall) (s : State) : s.LeadsTo (hostCall c s).2 := by
  cases c with
  | power => exact runCall_leadsTo (fun _ => power_next_leadsTo) fun _ => power_fault_leadsTo
  | step => exact runCall_leadsTo (fun _ => step_next_leadsTo) fun _ => step_fault_leadsTo
  | readA | readX | readY | readStatus | readPc | readCycles =>
    exact (readCall_state s _ _).symm ▸ State.LeadsTo.refl s
  | setA | setX | setY | forceStatus => exact ⟨.refl s.bus, rfl⟩

theorem hostRun_leadsTo (cs : List HostCall) (s : State) : s.LeadsTo (hostRun cs s).2 := by
  induction cs generalizing s with
  | nil => exact .refl s
  | cons c cs ih => exact (hostCall_leadsTo c s).trans (ih _)

/-- Settles O31: a step, completing or raising, only accesses the bus, and every access keeps the canonical form. -/
theorem stepKeepsMemoryCanonical : Obligations.StepKeepsMemoryCanonical :=
  fun _ hs => ⟨fun _ h => (step_next_leadsTo h).inv hs, fun _ _ _ h => (step_fault_leadsTo h).inv hs,
    fun _ _ h => (step_fault_leadsTo h).inv hs⟩

/-- Settles O33, by induction on the calls (`hostRun_leadsTo`). -/
theorem hostRunsKeepMapParamsHistory : Obligations.HostRunsKeepMapParamsHistory := by
  intro cs s
  have h := hostRun_leadsTo cs s
  exact ⟨h.bus.windows, h.params, h.bus.log, h.inv⟩

/-! The accesses of a fetch. -/

theorem fetchAccesses_succ (pc : Word) (n : Nat) :
    fetchAccesses pc (n + 1) = (.read, pc) :: fetchAccesses (pc + 1) n := by
  have hnext (k : Nat) : pc + BitVec.ofNat 16 (k + 1) = pc + 1 + BitVec.ofNat 16 k := by
    rw [Nat.add_comm, BitVec.ofNat_add, ← BitVec.add_assoc]
    rfl
  simp only [fetchAccesses, List.range_succ_eq_map, List.map_cons, List.map_map]
  exact congrArg₂ List.cons (congrArg _ (BitVec.add_zero pc))
    (List.map_congr_left fun k _ => congrArg _ (hnext k))

/-- Reads at consecutive addresses are what a fetch of that many bytes makes. -/
theorem Bus.readAll_makes {n : Nat} {a : Word} {vs : List Byte} {b c : Bus} (h : b.readAll a n = .ok vs c) :
    b.Makes c (fetchAccesses a n) := by
  induction n generalizing a vs b c with
  | zero => cases h; exact .refl b
  | succ n ih =>
    obtain ⟨v, d, hread, hk⟩ := BusResult.andThen_ok h
    obtain ⟨ws, e, hrest, hk⟩ := BusResult.andThen_ok hk
    cases hk
    rw [fetchAccesses_succ]
    exact (Bus.read_makes hread).trans (ih hrest)

/-- A fetch that finds an instruction: the opcode's row of the table, and the operand bytes it takes. -/
theorem fetch_instr {s : State} {i : Instr} {b : Bus} (h : fetch s = .ok (.instr i) b) :
    ∃ op r c, s.bus.read s.pc = .ok op c ∧ findByte op = some r ∧ fetchRest r s.pc c = .ok (.instr i) b := by
  obtain ⟨op, c, hread, hk⟩ := BusResult.andThen_ok h
  split at hk
  · cases hk
  · cases hf : findByte op with
    | none => rw [hf] at hk; cases hk
    | some r => rw [hf] at hk; exact ⟨op, r, c, hread, hf, hk⟩

/-- What the fetch reads after the opcode, by the row's build, is the rest of the encoding. -/
theorem fetchRest_readAll {r : OpcodeRow} {pc : Word} {i : Instr} {b c : Bus} (hr : r.Encodes)
    (h : fetchRest r pc b = .ok (.instr i) c) :
    ∃ vs, encode i = r.byte :: vs ∧ i.length = vs.length + 1 ∧ b.readAll (pc + 1) vs.length = .ok vs c := by
  unfold OpcodeRow.Encodes at hr
  unfold fetchRest at h
  cases hb : r.build with
  | bare j =>
    rw [hb] at hr h
    cases h
    exact ⟨[], hr.1, hr.2, rfl⟩
  | withByte f =>
    rw [hb] at hr h
    obtain ⟨v, d, hv, hk⟩ := BusResult.andThen_ok h
    cases hk
    obtain ⟨hencode, hlength⟩ := hr v
    refine ⟨[v], hencode, hlength, ?_⟩
    simp only [List.length_cons, List.length_nil, Bus.readAll, hv, BusResult.ok_andThen]
  | withWord f =>
    rw [hb] at hr h
    obtain ⟨w, d, hw, hk⟩ := BusResult.andThen_ok h
    cases hk
    obtain ⟨l, d, hlow, hk⟩ := BusResult.andThen_ok hw
    obtain ⟨k, e, hhigh, hk⟩ := BusResult.andThen_ok hk
    cases hk
    obtain ⟨hencode, hlength⟩ := hr (concat k l)
    rw [lo_concat, hi_concat] at hencode
    have hpc : pc + 1 + 1 = pc + 2 := by bv_omega
    refine ⟨[l, k], hencode, hlength, ?_⟩
    simp only [List.length_cons, List.length_nil, Bus.readAll, hlow, hpc, hhigh, BusResult.ok_andThen]

/-- A fetch that finds an instruction has read its encoding, byte for byte. -/
theorem fetch_readAll {s : State} {i : Instr} {b : Bus} (h : fetch s = .ok (.instr i) b) :
    s.bus.readAll s.pc i.length = .ok (encode i) b := by
  obtain ⟨op, r, c, hread, hf, hrest⟩ := fetch_instr h
  obtain ⟨hmem, rfl⟩ := findByte_some hf
  obtain ⟨vs, hencode, hlength, hall⟩ := fetchRest_readAll (table_encodes r hmem) hrest
  simp only [hencode, hlength, Bus.readAll, hread, hall, BusResult.ok_andThen]

/-! The accesses of an instruction. -/

/-- From `s` to `t`, the pointer reads of the operand, then the accesses `data` gives for what it resolved to. -/
def Accesses (o : Operand) (data : Target → List (AccessKind × Word)) (s t : State) : Prop :=
  ∃ r b, resolve o s s.bus = .ok r b ∧ s.bus.Makes t.bus (pointerAccesses s o ++ data r.operand)

/-- An implied operand makes no access of its own. -/
theorem Accesses.of_implied {o : Operand} {data : Target → List (AccessKind × Word)} {s t : State}
    (hm : o.mode = .implied) (h : s.bus.Makes t.bus (data .noOperand)) : Accesses o data s t := by
  cases o with
  | implied => exact ⟨_, _, rfl, h⟩
  | _ => cases hm

/-- Accesses at a target, one kind after another. -/
theorem targetAccesses_append (ks ls : List AccessKind) (t : Target) :
    targetAccesses ks t ++ targetAccesses ls t = targetAccesses (ks ++ ls) t := by
  cases t with
  | address a => exact List.map_append.symm
  | immediate | accumulator | noOperand => rfl

section Rows

variable {o : Operand} {base : Nat} {s t : State}

theorem readRow_accesses {pen : Resolved → Nat} {f : Byte → State → State} (h : readRow o base pen f s = .next t) :
    Accesses o (targetAccesses [.read]) s t := by
  obtain ⟨r, m, b, hread, rfl⟩ := readRow_next h
  obtain ⟨⟨d, hres⟩, hmakes⟩ := readOperand_makes hread
  exact ⟨r, d, hres, hmakes⟩

theorem storeRow_accesses {v : Byte} (h : storeRow o base v s = .next t) :
    Accesses o (targetAccesses [.write]) s t := by
  obtain ⟨a, b, c, haddr, hwrite, rfl⟩ := storeRow_next h
  obtain ⟨⟨r, hres, hop, -⟩, hmakes⟩ := operandAddress_makes haddr
  refine ⟨r, b, hres, hmakes.trans ?_⟩
  rw [hop]
  exact Bus.write_makes hwrite

theorem modifyRow_accesses {f : Byte → State → Byte × Byte} (h : modifyRow o base f s = .next t) :
    Accesses o (targetAccesses [.read, .write]) s t := by
  obtain ⟨r, m, b, u, c, hread, hstore, rfl⟩ := modifyRow_next h
  obtain ⟨⟨d, hres⟩, hmakes⟩ := readOperand_makes hread
  refine ⟨r, d, hres, ?_⟩
  have hboth := hmakes.trans (store_makes hstore)
  rwa [List.append_assoc, targetAccesses_append] at hboth

theorem impliedRow_accesses {f : State → State} (h : impliedRow base f s = .next t) (hm : o.mode = .implied) :
    Accesses o (fun _ => []) s t := by
  obtain rfl := impliedRow_next h
  exact .of_implied hm (.refl _)

theorem branchRow_accesses {off : Byte} {taken : Bool} (h : branchRow off taken s = .next t) :
    Accesses (.relative off) (fun _ => []) s t := by
  obtain ⟨-, -, -, -, -, hbus, -⟩ := branchRow_next h
  exact ⟨_, _, rfl, hbus ▸ .refl _⟩

theorem jumpRow_accesses (h : jumpRow o base s = .next t) : Accesses o (fun _ => []) s t := by
  obtain ⟨a, b, haddr, rfl⟩ := jumpRow_next h
  obtain ⟨⟨r, hres, -, -⟩, hmakes⟩ := operandAddress_makes haddr
  exact ⟨r, b, hres, hmakes.trans (.refl _)⟩

theorem pushRow_accesses {v : Byte} (h : pushRow base v s = .next t) (hm : o.mode = .implied) :
    Accesses o (fun _ => [(.write, stackSlot s s.sp)]) s t := by
  obtain ⟨b, hwrite, rfl⟩ := pushRow_next h
  exact .of_implied hm (Bus.write_makes hwrite)

theorem pullRow_accesses {f : Byte → State → State} (h : pullRow base f s = .next t) (hm : o.mode = .implied) :
    Accesses o (fun _ => [(.read, stackSlot s (s.sp + 1))]) s t := by
  obtain ⟨v, b, hread, rfl⟩ := pullRow_next h
  exact .of_implied hm (Bus.read_makes hread)

end Rows

/-- The step of an operation that commits what `r` answered makes the accesses of `r`. -/
theorem finish_andThen_makes {α : Type} {s t : State} {r : BusResult α} {k : α → State}
    {xs : List (AccessKind × Word)} (h : finish s (r.andThen fun v b => .ok (k v) b) = .next t)
    (hr : ∀ v b, r = .ok v b → s.bus.Makes b xs) : s.bus.Makes t.bus xs := by
  obtain ⟨u, b, hfin, rfl⟩ := finish_next h
  obtain ⟨v, c, hv, hk⟩ := BusResult.andThen_ok hfin
  cases hk
  exact hr v _ hv

/-- Every operation makes the accesses of its rule, in each mode it is defined with (R102). -/
theorem operationStep_accesses {op : Operation} {o : Operand} {base : Nat} {s t : State} (hm : o.mode ∈ op.modes)
    (h : operationStep op o base s = .next t) : Accesses o (dataAccesses s op) s t := by
  unfold operationStep at h
  cases op with
  | adc | sbc | cmp | cpx | cpy | eor | and | ora | bit | lda | ldx | ldy => exact readRow_accesses h
  | sta | stx | sty => exact storeRow_accesses h
  | inc | dec | lsr | asl | rol | ror => exact modifyRow_accesses h
  | inx | iny | dex | dey | tax | tay | txa | tya | tsx | txs | clc | sec | cli | sei | cld | sed | clv | nop =>
    exact impliedRow_accesses h (List.mem_singleton.1 hm)
  | pha | php => exact pushRow_accesses h (List.mem_singleton.1 hm)
  | pla | plp => exact pullRow_accesses h (List.mem_singleton.1 hm)
  | bpl | bmi | bvc | bvs | bcc | bcs | bne | beq =>
    obtain ⟨off, rfl⟩ := relative_of_mode (List.mem_singleton.1 hm)
    exact branchRow_accesses h
  | jmp => exact jumpRow_accesses h
  | jsr =>
    obtain ⟨u, b, hfin, rfl⟩ := finish_next h
    obtain ⟨a, c, haddr, hk⟩ := BusResult.andThen_ok hfin
    obtain ⟨v, d, hpush, hk⟩ := BusResult.andThen_ok hk
    cases hk
    obtain ⟨⟨r, hres, -, -⟩, hmakes⟩ := operandAddress_makes haddr
    exact ⟨r, c, hres, hmakes.trans (pushWord_makes hpush)⟩
  | rts => exact .of_implied (List.mem_singleton.1 hm) (finish_andThen_makes h fun _ _ => pullWord_makes)
  | brk => exact .of_implied (List.mem_singleton.1 hm) (finish_andThen_makes h fun _ _ => enterTrap_makes)
  | rti => exact .of_implied (List.mem_singleton.1 hm) (finish_andThen_makes h fun _ _ => returnFromTrap_makes)

/-- Every completing instruction makes the accesses of its rule, and no other. -/
theorem exec_accesses {i : Instr} {s t : State} (h : exec i s = .next t) :
    Accesses i.operand (dataAccesses s i.operation) s t :=
  operationStep_accesses (mode_mem_modes i) ((exec_eq_operationStep i s).symm.trans h)

/-- What `Bus.Makes` says of the history alone. -/
theorem Bus.Makes.history {b c : Bus} {xs : List (AccessKind × Word)} (h : b.Makes c xs) :
    ∃ new, c.log = new ++ b.log ∧ new.reverse.map accessAt = xs := by
  obtain ⟨new, hlog, hat, -⟩ := h
  exact ⟨new, hlog, hat⟩

/-- Settles O30: the reads of the fetch, then the accesses of the instruction from the bus the fetch left. -/
theorem accessesAreTheLogicalSequence : Obligations.AccessesAreTheLogicalSequence := by
  refine ⟨fun s i b h => ⟨fetch_readAll h, (Bus.readAll_makes (fetch_readAll h)).history⟩, fun i s t h => ?_,
    fun s t h => ?_⟩
  · obtain ⟨r, b, hres, hmakes⟩ := exec_accesses h
    obtain ⟨new, hlog, hat⟩ := hmakes.history
    exact ⟨r, b, new, hres, hlog, hat⟩
  · obtain ⟨-, i, b, hfetch, -, hexec⟩ := step_next h
    obtain ⟨r, c, hres, hmakes⟩ := exec_accesses hexec
    obtain ⟨new, hlog, hat⟩ := ((Bus.readAll_makes (fetch_readAll hfetch)).trans hmakes).history
    exact ⟨i, b, r, c, new, hfetch, hres, hlog, by rw [hat, List.append_assoc]; rfl⟩

/-! Reading back. -/

/-- The rule for reads depends on the map alone. -/
theorem Bus.readRule_eq_of_windows {b c : Bus} (h : c.windows = b.windows) (a : Word) :
    c.readRule a = b.readRule a := by
  simp only [Bus.readRule, h]

/-- After accesses to the bus, a read of memory still answers the byte stored there. -/
theorem Bus.Reaches.read_of_cells {b c : Bus} (h : b.Reaches c) {k : Word} (hk : b.readRule k = .cells) :
    ∃ d, c.read k = .ok (c.stored k) d :=
  ⟨_, Bus.read_of_cells ((Bus.readRule_eq_of_windows h.windows k).trans hk)⟩

/-- Settles O60: where the map says memory, a read answers what is stored, and a write stores at its address alone. -/
theorem memoryReadsBackWhatWasWritten : Obligations.MemoryReadsBackWhatWasWritten := by
  intro b a v hwf ⟨hread, hwrite⟩
  obtain ⟨c, hw⟩ : ∃ c, b.write a v = .ok () c := ⟨_, Bus.write_of_cells v hwrite⟩
  have hreach := (b.write_reaches a v).ok hw
  refine ⟨c, hw, hreach.wf hwf, ?_, fun k w d hne hk hold => ?_⟩
  · rw [← Bus.stored_write_same hwf hwrite hw]
    exact hreach.read_of_cells hread
  · rw [Bus.read_of_cells hk.1] at hold
    cases hold
    rw [← Bus.stored_write_other hw hne]
    exact hreach.read_of_cells hk.1

/-! Addresses in page zero and in the stack page. -/

/-- An address with the number of a byte is that byte's in page zero. -/
theorem eq_zext {p : Word} {z : Byte} (h : p.toNat = z.toNat) : p = zext z :=
  BitVec.eq_of_toNat_eq (h.trans (zext_toNat z).symm)

/-- Settles O23: the index and the pointer increment are sums of bytes, which `zext` carries into page zero. -/
theorem zeroPageIndexWraps : Obligations.ZeroPageIndexWraps := by
  have pointer {p q : Word} {z : Byte} (hp : p.toNat = z.toNat) (hq : q.toNat = (p.toNat + 1) % 256) :
      p = zext z ∧ q = zext (z + 1) :=
    ⟨eq_zext hp, eq_zext (by rw [hq, hp, BitVec.toNat_add]; rfl)⟩
  refine ⟨fun z s b => ⟨⟨_, rfl, zext_toNat z⟩, ⟨_, rfl, ?_⟩, ⟨_, rfl, ?_⟩⟩, fun z s b p q hp hq => ?_,
    fun z s b p q hp hq => ?_⟩
  · rw [zext_toNat, BitVec.toNat_add]
  · rw [zext_toNat, BitVec.toNat_add]
  · obtain ⟨rfl, rfl⟩ := pointer (z := z + s.x) (by rw [hp, BitVec.toNat_add]) hq
    rfl
  · obtain ⟨rfl, rfl⟩ := pointer hp hq
    rfl

/-- Settles O25: a push and a pull are the one write and the one read at the stack address. -/
theorem stackWrapsInItsPage : Obligations.StackWrapsInItsPage := by
  intro s hparams
  refine ⟨?_, fun v b c hw => ⟨s.sp - 1, by bv_omega, push_of hw⟩, fun v b c n hn hr => ?_⟩
  · rw [State.stackAddr, concat_toNat, hparams]
    rfl
  · obtain rfl : n = s.sp + 1 := BitVec.eq_of_toNat_eq (by rw [hn, BitVec.toNat_add]; rfl)
    exact pull_of hr

/-- Settles O44: the two vector reads answer the fixture's unlisted byte. -/
theorem resetIsPowerOnOfTheFixture : Obligations.ResetIsPowerOnOfTheFixture := rfl

end Sys2Proof.Machine

/-! The table and its two codecs: decoding and encoding, the undefined bytes, the pairs of R102; what a step makes of
the bytes at PC; the indexed addresses and the branch offsets; the cycles an instruction charges. -/

namespace Sys2Proof

/-! Decoding and encoding. -/

/-- A term is well formed when R102 has its pair and R81 its number of operand bytes. -/
theorem Term.wellFormed_of {t : Term} (hm : t.mode ∈ t.operation.modes)
    (hb : t.bytes.length = t.mode.operandBytes) : t.WellFormed := by
  simp only [Term.WellFormed, Term.problem]
  rw [if_neg (not_not.2 hm), if_neg (not_not.2 hb)]

/-- A term whose pair R102 does not have is refused for that pair. -/
theorem Term.problem_of_undefinedPair {t : Term} (hm : t.mode ∉ t.operation.modes) :
    t.problem = some (.undefinedPair t.operation t.mode) :=
  if_pos hm

/-- Every instruction is well formed. -/
theorem instr_wellFormed (i : Instr) : i.WellFormed :=
  Term.wellFormed_of (t := i.term) (Machine.mode_mem_modes i) (Machine.operand_bytes_length i.operand)

theorem encode_of_row {i : Instr} {r : OpcodeRow} (h : i.row = some r) : encode i = r.byte :: i.operand.bytes := by
  simp only [encode, h]

theorem decode_of_row {op : Byte} {r : OpcodeRow} (h : findByte op = some r) (rest : List Byte) :
    decode (op :: rest) = r.take rest := by
  simp only [decode, h]

/-- Decoding gives back what was encoded: the row of the pair is the row of its byte (`row_of_instr`). -/
theorem decode_encode (i : Instr) (rest : List Byte) : decode (encode i ++ rest) = .ok (i, rest) := by
  obtain ⟨r, hrow, hbyte, -, -, -, htake⟩ := row_of_instr i
  rw [encode_of_row hrow, List.cons_append, decode_of_row hbyte, htake]

/-- Settles O34: every instruction has one row, which both lookups find and which makes it back from its bytes. -/
theorem decodeInvertsEncode : Obligations.DecodeInvertsEncode :=
  fun i rest => ⟨instr_wellFormed i, decode_encode i rest⟩

/-- The instruction a row takes is encoded as the row's byte and the operand bytes taken. -/
theorem OpcodeRow.Encodes.of_take {r : OpcodeRow} (hr : r.Encodes) {bytes rest : List Byte} {i : Instr}
    (h : r.take bytes = .ok (i, rest)) : r.byte :: bytes = encode i ++ rest := by
  unfold OpcodeRow.Encodes at hr
  unfold OpcodeRow.take at h
  split at h
  case h_1 j _ hb =>
    rw [hb] at hr
    cases h
    rw [hr.1]
    rfl
  case h_2 f v _ hb =>
    rw [hb] at hr
    cases h
    rw [(hr v).1]
    rfl
  case h_3 f l k _ hb =>
    rw [hb] at hr
    cases h
    rw [(hr (concat k l)).1, lo_concat, hi_concat]
    rfl
  case h_4 => cases h

/-- What decodes begins with an opcode of the table, whose row takes the bytes after it. -/
theorem decode_ok {bytes rest : List Byte} {i : Instr} (h : decode bytes = .ok (i, rest)) :
    ∃ op r more, bytes = op :: more ∧ findByte op = some r ∧ r.take more = .ok (i, rest) := by
  cases bytes with
  | nil => cases h
  | cons op more =>
    cases hf : findByte op with
    | none => simp only [decode, hf] at h; cases h
    | some r => exact ⟨op, r, more, rfl, hf, (decode_of_row hf more).symm.trans h⟩

/-- Settles O35: the row that decodes the bytes encodes the instruction it makes of them (`table_encodes`). -/
theorem encodeInvertsDecode : Obligations.EncodeInvertsDecode := by
  intro bytes i rest h
  obtain ⟨op, r, more, rfl, hf, htake⟩ := decode_ok h
  obtain ⟨hmem, rfl⟩ := findByte_some hf
  exact (table_encodes r hmem).of_take htake

/-! The undefined opcodes. -/

/-- The bytes of the table and the bytes R100 lists are all different. -/
theorem opcodes_nodup : (opcodeTable.map OpcodeRow.byte ++ Machine.undefinedOpcodes).Nodup := by decide +kernel

theorem opcodes_length : (opcodeTable.map OpcodeRow.byte ++ Machine.undefinedOpcodes).length = 256 := by
  decide +kernel

/-- They are 256 different bytes, so every byte is one of them. -/
theorem mem_opcodes (op : Byte) : op ∈ opcodeTable.map OpcodeRow.byte ++ Machine.undefinedOpcodes := by
  by_contra hout
  have hle := (List.Nodup.cons hout opcodes_nodup).length_le_card
  rw [List.length_cons, opcodes_length, ← FinEnum.card_eq_fintypeCard, FinEnum.card_bitVec] at hle
  omega

theorem mem_undefinedOpcodes_iff (op : Byte) : op ∈ Machine.undefinedOpcodes ↔ op ∉ opcodeTable.map OpcodeRow.byte :=
  ⟨fun hu ht => (List.nodup_append.1 opcodes_nodup).2.2 op ht op hu rfl,
    (List.mem_append.1 (mem_opcodes op)).resolve_left⟩

theorem findByte_eq_none_iff (op : Byte) : findByte op = none ↔ op ∈ Machine.undefinedOpcodes := by
  rw [mem_undefinedOpcodes_iff]
  simp [findByte]

theorem decode_of_findByte_none {op : Byte} (h : findByte op = none) (rest : List Byte) :
    decode (op :: rest) = .error (.undefinedOpcode op) := by
  simp only [decode, h]

/-- Settles O36: the 151 bytes of the table and the 105 listed are all bytes, each once. -/
theorem undefinedOpcodesAreTheListed105 : Obligations.UndefinedOpcodesAreTheListed105 :=
  ⟨findByte_eq_none_iff, rfl, (List.nodup_append.1 opcodes_nodup).2.1,
    fun op rest h => decode_of_findByte_none ((findByte_eq_none_iff op).2 h) rest⟩

/-- Settles O38: each of the words is the encoding of the instruction it stands for. -/
theorem sampleWordsDecode : Obligations.SampleWordsDecode :=
  ⟨decode_encode (.adcAbsY 0x1234) [], decode_encode (.eorImm 0xFF) [], decode_encode .rorA [],
    decode_encode (.ldxZpY 0x10) [], decode_encode .php [], decode_encode .sed [], decode_encode (.bne 0xF8) [],
    decode_encode (.jmpInd 0x12FF) [], decode_encode (.jsr 0x9000) [], decode_encode (.staIndY 0x40) []⟩

/-! The pairs of the table. -/

/-- Every row's pair is one of R102's. -/
theorem table_modes : ∀ r ∈ opcodeTable, r.mode ∈ r.operation.modes := by decide +kernel

/-- Every pair of R102 has a row. -/
theorem findPair_isSome (op : Operation) : ∀ m ∈ op.modes, (findPair op m).isSome = true := by
  cases op <;> decide

theorem mem_modes_iff_findPair (op : Operation) (m : AddressMode) :
    m ∈ op.modes ↔ ∃ r, findPair op m = some r ∧ r.operation = op ∧ r.mode = m := by
  constructor
  · intro h
    obtain ⟨r, hr⟩ := Option.isSome_iff_exists.1 (findPair_isSome op m h)
    exact ⟨r, hr, (findPair_some hr).2⟩
  · rintro ⟨r, hr, rfl, rfl⟩
    exact table_modes r (findPair_some hr).1

theorem findPair_eq_none {op : Operation} {m : AddressMode} (h : m ∉ op.modes) : findPair op m = none := by
  rw [Option.eq_none_iff_forall_ne_some]
  intro r hr
  exact h ((mem_modes_iff_findPair op m).2 ⟨r, hr, (findPair_some hr).2⟩)

/-! The base cycles of the table. -/

/-- Every row charges two cycles at least; a branch charges two (R210). -/
theorem table_base : ∀ r ∈ opcodeTable, 2 ≤ r.base ∧ (r.mode = .relative → r.base = 2) := by decide +kernel

/-- An instruction's base cycles are those of a row of the table in its mode. -/
theorem base_of_table (i : Instr) : ∃ r ∈ opcodeTable, r.mode = i.operand.mode ∧ i.base = r.base := by
  obtain ⟨r, hrow, -, -, hmode, -, -⟩ := row_of_instr i
  exact ⟨r, (findPair_some hrow).1, hmode, by simp [Instr.base, hrow]⟩

theorem two_le_base (i : Instr) : 2 ≤ i.base := by
  obtain ⟨r, hr, -, hbase⟩ := base_of_table i
  rw [hbase]
  exact (table_base r hr).1

theorem base_of_relative {i : Instr} (h : i.operand.mode = .relative) : i.base = 2 := by
  obtain ⟨r, hr, hmode, hbase⟩ := base_of_table i
  rw [hbase]
  exact (table_base r hr).2 (hmode.trans h)

end Sys2Proof

namespace Sys2Proof.Machine

/-! Constructing a term, and what refuses a step. -/

theorem construct_of_undefinedPair {op : Operation} {m : AddressMode} (h : m ∉ op.modes) (bytes : List Byte) :
    construct ⟨op, m, bytes⟩ = .error (.configurationError op m) := by
  simp only [construct, Term.instr, Term.problem_of_undefinedPair (t := ⟨op, m, bytes⟩) h]

theorem BusResult.HasCase.ne_noCase {α : Type} {r : BusResult α} (h : r.HasCase) : r ≠ .noCase := by
  rintro rfl
  exact h

/-- Every result that has a case ends the step in its effects or in a bus error. -/
theorem finish_ne_refused {s : State} {r : BusResult State} (h : r.HasCase) (q : Refusal) :
    finish s r ≠ .refused q := by
  cases r with
  | ok t b => exact nofun
  | raised e b => exact nofun
  | noCase => exact h.elim

/-- No instruction is refused. -/
theorem exec_ne_refused (i : Instr) (s : State) (q : Refusal) : exec i s ≠ .refused q := by
  obtain ⟨r, hr⟩ := exec_facts i s
  rw [hr.outcome]
  exact finish_ne_refused hr.hasCase q

/-- A step is refused for the lifecycle of the core alone (R234, R235). -/
theorem step_refused {s : State} {q : Refusal} (h : step s = .refused q) : s.mode ≠ .running ∧ q = .notPowered := by
  unfold step at h
  cases hm : s.mode with
  | unpowered | faulted =>
    rw [hm] at h
    cases h
    exact ⟨Lifecycle.noConfusion, rfl⟩
  | running =>
    rw [hm] at h
    cases hf : fetch s with
    | noCase => exact absurd hf (fetch_hasCase s).ne_noCase
    | raised e b => rw [hf] at h; cases h
    | ok f b =>
      rw [hf] at h
      cases f with
      | undefined op => cases h
      | instr i => exact absurd h (exec_ne_refused i _ q)

/-- Settles O53: the rows of the table are R102's pairs; a step is refused as NotPowered alone (`step_refused`). -/
theorem pairsOfTheTable : Obligations.PairsOfTheTable := by
  refine ⟨mem_modes_iff_findPair, fun op m bytes h => ⟨findPair_eq_none h, construct_of_undefinedPair h bytes⟩,
    fun s op m h => ?_⟩
  obtain ⟨-, hq⟩ := step_refused h
  cases hq

/-! A step and the bytes at PC. -/

/-- Reads that answer no byte are no reads. -/
theorem Bus.readAll_nil {n : Nat} {a : Word} {b c : Bus} (h : b.readAll a n = .ok [] c) : c = b := by
  cases n with
  | zero => cases h; rfl
  | succ n =>
    obtain ⟨v, d, -, hk⟩ := BusResult.andThen_ok h
    obtain ⟨ws, e, -, hk⟩ := BusResult.andThen_ok hk
    cases hk

/-- Reads that answer bytes: the first, then the others from the next address. -/
theorem Bus.readAll_cons {n : Nat} {a : Word} {v : Byte} {vs : List Byte} {b c : Bus}
    (h : b.readAll a n = .ok (v :: vs) c) : ∃ m d, b.read a = .ok v d ∧ d.readAll (a + 1) m = .ok vs c := by
  cases n with
  | zero => cases h
  | succ n =>
    obtain ⟨v, d, hread, hk⟩ := BusResult.andThen_ok h
    obtain ⟨ws, e, hrest, hk⟩ := BusResult.andThen_ok hk
    cases hk
    exact ⟨n, d, hread, hrest⟩

/-- Where the bytes after the opcode are the ones a row takes, the rest of the fetch makes the same instruction. -/
theorem fetchRest_of_readAll {r : OpcodeRow} {pc : Word} {n : Nat} {vs : List Byte} {b c : Bus} {i : Instr}
    (hread : b.readAll (pc + 1) n = .ok vs c) (htake : r.take vs = .ok (i, [])) :
    fetchRest r pc b = .ok (.instr i) c := by
  unfold OpcodeRow.take at htake
  unfold fetchRest
  split at htake
  case h_1 j _ hb =>
    cases htake
    rw [hb, Bus.readAll_nil hread]
  case h_2 f v _ hb =>
    cases htake
    obtain ⟨_, d, hv, hrest⟩ := Bus.readAll_cons hread
    simp only [hb, hv, BusResult.ok_andThen, Bus.readAll_nil hrest]
  case h_3 f l k _ hb =>
    cases htake
    obtain ⟨_, d, hl, hrest⟩ := Bus.readAll_cons hread
    obtain ⟨_, e, hh, hrest⟩ := Bus.readAll_cons hrest
    have hpc : pc + 1 + 1 = pc + 2 := by bv_omega
    rw [hpc] at hh
    simp only [hb, Bus.readPair, hl, hh, BusResult.ok_andThen, Bus.readAll_nil hrest]
  case h_4 => cases htake

/-- A fetch whose reads answer the bytes of an instruction of `OPCODE_SET` finds it. -/
theorem fetch_of_readAll {s : State} {n : Nat} {bytes : List Byte} {b : Bus} {i : Instr}
    (hread : s.bus.readAll s.pc n = .ok bytes b) (hdec : decode bytes = .ok (i, []))
    (hset : ∀ op ∈ bytes.head?, s.params.excludedOpcodes.contains op = false) : fetch s = .ok (.instr i) b := by
  obtain ⟨op, r, more, rfl, hf, htake⟩ := decode_ok hdec
  obtain ⟨_, c, hop, hrest⟩ := Bus.readAll_cons hread
  simp only [fetch, hop, BusResult.ok_andThen, hset op rfl, hf]
  exact fetchRest_of_readAll hrest htake

/-- A Running core that fetches an instruction runs it (R111). -/
theorem step_of_fetch {s : State} {i : Instr} {b : Bus} (hm : s.mode = .running)
    (hf : fetch s = .ok (.instr i) b) : step s = exec i (s.setBus b) := by
  unfold step
  rw [hm, hf]

theorem Bus.ReadsTo.readRule {b c : Bus} (h : b.ReadsTo c) (a : Word) : c.readRule a = b.readRule a :=
  Bus.readRule_eq_of_windows h.windows a

theorem add_ofNat_succ (a : Word) (k : Nat) : a + BitVec.ofNat 16 (k + 1) = a + 1 + BitVec.ofNat 16 k := by
  rw [Nat.add_comm, BitVec.ofNat_add, ← BitVec.add_assoc]
  rfl

/-- In memory, reads at consecutive addresses answer the bytes stored there and change none. -/
theorem Bus.readAll_of_cells {a : Word} {bytes : List Byte} {b : Bus}
    (h : ∀ k : Nat, k < bytes.length → b.readRule (a + BitVec.ofNat 16 k) = .cells ∧
      bytes[k]? = some (b.stored (a + BitVec.ofNat 16 k))) :
    ∃ c, b.readAll a bytes.length = .ok bytes c ∧ b.ReadsTo c := by
  induction bytes generalizing a b with
  | nil => exact ⟨b, rfl, .refl b⟩
  | cons v vs ih =>
    obtain ⟨hrule, hv⟩ := h 0 (Nat.succ_pos _)
    rw [BitVec.add_zero] at hrule hv
    cases hv
    have hread := Bus.read_of_cells hrule
    have hone := (b.read_readsTo a).ok hread
    obtain ⟨c, hall, hrest⟩ := ih (a := a + 1) (b := b.record (.read a (b.stored a))) fun k hk => by
      rw [hone.readRule, hone.stored, ← add_ofNat_succ]
      exact h (k + 1) (Nat.succ_lt_succ hk)
    refine ⟨c, ?_, hone.trans hrest⟩
    simp only [List.length_cons, Bus.readAll, hread, hall, BusResult.ok_andThen]

/-- Settles O39: the fetch finds the instruction the bytes decode to; in memory its reads answer what is stored. -/
theorem stepRunsTheDecodedInstruction : Obligations.StepRunsTheDecodedInstruction := by
  refine ⟨fun s n bytes b i hmode hread hdec hset => step_of_fetch hmode (fetch_of_readAll hread hdec hset),
    fun b a bytes h => ?_⟩
  obtain ⟨c, hall, hreads⟩ := Bus.readAll_of_cells h
  exact ⟨c, hall, hreads.cells, hreads.windows⟩

/-! Indexed addresses and branch offsets. -/

/-- An indexed address: the sum modulo 65536, and a page cross where its high byte is not the base's. -/
theorem indexed_eq (base : Word) (r : Byte) (n : Nat) :
    ∃ ea : Word, indexed base r n = ⟨.address ea, decide (base.toNat / 256 ≠ ea.toNat / 256), n⟩ ∧
      ea.toNat = (base.toNat + r.toNat) % 65536 :=
  ⟨base + zext r, by rw [indexed, pageCross_eq], by rw [BitVec.toNat_add, zext_toNat]⟩

/-- Settles O24: the three modes end in the same sum (`indexed_eq`), IndirectY after the reads of its pointer. -/
theorem indexedAddressesWrapAndCross : Obligations.IndexedAddressesWrapAndCross := by
  refine ⟨fun w s b => ⟨?_, ?_⟩, fun z s b c w hr => ?_⟩
  · obtain ⟨ea, h, hea⟩ := indexed_eq w s.x 2
    exact ⟨ea, congrArg (BusResult.ok · b) h, hea⟩
  · obtain ⟨ea, h, hea⟩ := indexed_eq w s.y 2
    exact ⟨ea, congrArg (BusResult.ok · b) h, hea⟩
  · obtain ⟨ea, h, hea⟩ := indexed_eq w s.y 1
    refine ⟨ea, ?_, hea⟩
    simp only [resolve, hr, BusResult.ok_andThen, h]

/-- A Word is its low byte sign-extended where that byte holds it as a signed number. -/
theorem sext_lo_eq_iff (d : Word) : sext (lo d) = d ↔ -128 ≤ d.toInt ∧ d.toInt ≤ 127 := by
  have hsext : (sext (lo d)).toInt = (lo d).toInt := BitVec.toInt_signExtend_of_le (by omega)
  have hlo := BitVec.toInt_eq_toNat_cond (x := lo d)
  have hd := BitVec.toInt_eq_toNat_cond (x := d)
  have hlt := d.isLt
  rw [lo_toNat] at hlo
  rw [← BitVec.toInt_inj, hsext]
  split at hlo <;> split at hd <;> omega

/-- An offset that was chosen is the label's distance from the next instruction. -/
theorem branchOffset_some {addr target : Word} {off : Byte} (h : branchOffset addr target = some off) :
    sext off = target - (addr + 2) := by
  obtain ⟨hd, hoff⟩ := Option.ite_none_right_eq_some.1 h
  cases hoff
  exact hd

/-- There is an offset where one byte holds that distance. -/
theorem branchOffset_isSome_iff (addr target : Word) :
    (branchOffset addr target).isSome = true ↔ sext (lo (target - (addr + 2))) = target - (addr + 2) :=
  Option.isSome_ite

/-- Settles O59: the offset is the label's distance from the next instruction, where one byte holds it. -/
theorem branchLabelsEncode : Obligations.BranchLabelsEncode := by
  refine fun addr target => ⟨fun off h => ?_, (branchOffset_isSome_iff addr target).trans (sext_lo_eq_iff _)⟩
  rw [branchTarget, branchOffset_some h, add_sub_cancel]

/-! The cycles an instruction charges. -/

/-- From `s` to `t`, the base cycles and the penalty of R113 for what the operand resolved to. -/
def Charges (op : Operation) (o : Operand) (base : Nat) (s t : State) : Prop :=
  ∃ r b, resolve o s s.bus = .ok r b ∧ t.cycles = s.cycles + base + stepPenalty op s r.pageCrossed

/-- An operation with no penalty charges its base cycles, whatever the operand resolved to. -/
theorem Charges.of_noPenalty {op : Operation} {o : Operand} {base : Nat} {s t : State} {r : Resolved} {b : Bus}
    (hres : resolve o s s.bus = .ok r b) (hpen : ∀ c, stepPenalty op s c = 0) (ht : t.cycles = s.cycles + base) :
    Charges op o base s t :=
  ⟨r, b, hres, by rw [hpen, ht, Nat.add_zero]⟩

section Rows

variable {op : Operation} {o : Operand} {base : Nat} {s t : State}

theorem readRow_charges {pen : Resolved → Nat} {f : Byte → State → State} (h : readRow o base pen f s = .next t)
    (hpen : ∀ r, pen r = stepPenalty op s r.pageCrossed) : Charges op o base s t := by
  obtain ⟨r, m, b, hread, rfl⟩ := readRow_next h
  obtain ⟨⟨d, hres⟩, -⟩ := readOperand_makes hread
  exact ⟨r, d, hres, by rw [← hpen]; rfl⟩

theorem storeRow_charges {v : Byte} (h : storeRow o base v s = .next t) (hpen : ∀ c, stepPenalty op s c = 0) :
    Charges op o base s t := by
  obtain ⟨a, b, c, haddr, -, rfl⟩ := storeRow_next h
  obtain ⟨⟨r, hres, -, -⟩, -⟩ := operandAddress_makes haddr
  exact .of_noPenalty hres hpen rfl

theorem modifyRow_charges {f : Byte → State → Byte × Byte} (h : modifyRow o base f s = .next t)
    (hpen : ∀ c, stepPenalty op s c = 0) : Charges op o base s t := by
  obtain ⟨r, m, b, u, c, hread, -, rfl⟩ := modifyRow_next h
  obtain ⟨⟨d, hres⟩, -⟩ := readOperand_makes hread
  exact .of_noPenalty hres hpen rfl

theorem jumpRow_charges (h : jumpRow o base s = .next t) (hpen : ∀ c, stepPenalty op s c = 0) :
    Charges op o base s t := by
  obtain ⟨a, b, haddr, rfl⟩ := jumpRow_next h
  obtain ⟨⟨r, hres, -, -⟩, -⟩ := operandAddress_makes haddr
  exact .of_noPenalty hres hpen rfl

/-- A branch charges by its condition: nothing more, or one cycle taken, or two across a page (D18). -/
theorem branchRow_charges {off : Byte} {taken : Bool} (h : branchRow off taken s = .next t)
    (htaken : branchTaken s op = some taken) : Charges op (.relative off) 2 s t := by
  obtain ⟨-, -, -, -, -, -, hcycles⟩ := branchRow_next h
  refine ⟨_, _, rfl, hcycles.trans ?_⟩
  rw [stepPenalty, htaken]
  cases taken <;> rfl

/-- An implied operand resolves to nothing; such an operation pays no penalty. -/
theorem Charges.of_implied (hm : o.mode = .implied) (hpen : ∀ c, stepPenalty op s c = 0)
    (ht : t.cycles = s.cycles + base) : Charges op o base s t := by
  cases o with
  | implied => exact .of_noPenalty rfl hpen ht
  | _ => cases hm

theorem impliedRow_cycles {f : State → State} (h : impliedRow base f s = .next t) : t.cycles = s.cycles + base := by
  obtain rfl := impliedRow_next h
  rfl

theorem pushRow_cycles {v : Byte} (h : pushRow base v s = .next t) : t.cycles = s.cycles + base := by
  obtain ⟨b, -, rfl⟩ := pushRow_next h
  rfl

theorem pullRow_cycles {f : Byte → State → State} (h : pullRow base f s = .next t) : t.cycles = s.cycles + base := by
  obtain ⟨v, b, -, rfl⟩ := pullRow_next h
  rfl

/-- A return or a trap charges its base cycles. -/
theorem finish_cycles {α : Type} {r : BusResult α} {target : α → Word} {left : α → State}
    (h : finish s (r.andThen fun v b => .ok (commit o base 0 (some (target v)) s (left v)) b) = .next t) :
    t.cycles = s.cycles + base := by
  obtain ⟨u, b, hr, rfl⟩ := finish_next h
  obtain ⟨v, c, -, hk⟩ := BusResult.andThen_ok hr
  cases hk
  rfl

end Rows

/-- Every operation charges its base cycles and its penalty, in each mode it is defined with (R102). -/
theorem operationStep_charges {op : Operation} {o : Operand} {base : Nat} {s t : State} (hm : o.mode ∈ op.modes)
    (hbase : o.mode = .relative → base = 2) (h : operationStep op o base s = .next t) : Charges op o base s t := by
  unfold operationStep at h
  cases op with
  | adc | sbc | cmp | cpx | cpy | eor | and | ora | bit | lda | ldx | ldy => exact readRow_charges h fun _ => rfl
  | sta | stx | sty => exact storeRow_charges h fun _ => rfl
  | inc | dec | lsr | asl | rol | ror => exact modifyRow_charges h fun _ => rfl
  | inx | iny | dex | dey | tax | tay | txa | tya | tsx | txs | clc | sec | cli | sei | cld | sed | clv | nop =>
    exact .of_implied (List.mem_singleton.1 hm) (fun _ => rfl) (impliedRow_cycles h)
  | pha | php => exact .of_implied (List.mem_singleton.1 hm) (fun _ => rfl) (pushRow_cycles h)
  | pla | plp => exact .of_implied (List.mem_singleton.1 hm) (fun _ => rfl) (pullRow_cycles h)
  | bpl | bvc | bcc | bne =>
    obtain ⟨off, rfl⟩ := relative_of_mode (List.mem_singleton.1 hm)
    obtain rfl := hbase rfl
    exact branchRow_charges h (congrArg some (beq_false _))
  | bmi | bvs | bcs | beq =>
    obtain ⟨off, rfl⟩ := relative_of_mode (List.mem_singleton.1 hm)
    obtain rfl := hbase rfl
    exact branchRow_charges h (congrArg some (beq_true _))
  | jmp => exact jumpRow_charges h fun _ => rfl
  | jsr =>
    obtain ⟨u, b, hfin, rfl⟩ := finish_next h
    obtain ⟨a, c, haddr, hk⟩ := BusResult.andThen_ok hfin
    obtain ⟨v, d, -, hk⟩ := BusResult.andThen_ok hk
    cases hk
    obtain ⟨⟨r, hres, -, -⟩, -⟩ := operandAddress_makes haddr
    exact .of_noPenalty hres (fun _ => rfl) rfl
  | rts | brk | rti => exact .of_implied (List.mem_singleton.1 hm) (fun _ => rfl) (finish_cycles h)

/-- Settles O29: the charge of the instruction's operation, with the base cycles of its row. -/
theorem cyclesChargeBaseAndPenalty : Obligations.CyclesChargeBaseAndPenalty :=
  fun i s _ h => operationStep_charges (mode_mem_modes i) base_of_relative ((exec_eq_operationStep i s).symm.trans h)

/-! Every instruction completes. -/

/-- On a bus that raises no error, every instruction completes, and leaves such a bus. -/
theorem exec_completes (i : Instr) {s : State} (h : s.bus.NeverRaises) :
    ∃ t, exec i s = .next t ∧ t.bus.NeverRaises := by
  obtain ⟨r, hr⟩ := exec_facts i s
  obtain ⟨t, b, hans, hb⟩ := hr.answers h
  exact ⟨t.setBus b, by rw [hr.outcome, hans, finish_ok], hb⟩

/-- Settles O51: the instruction completes (`exec_completes`); its charge is O29's. -/
theorem everyInstructionCompletes : Obligations.EveryInstructionCompletes := by
  intro i s hbus
  obtain ⟨t, hexec, hquiet⟩ := exec_completes i hbus
  obtain ⟨-, hmode, hparams⟩ := exec_next hexec
  obtain ⟨r, b, -, hcycles⟩ := cyclesChargeBaseAndPenalty i s t hexec
  exact ⟨t, hexec, hcycles ▸ Nat.le_add_right _ _, two_le_base i, hmode, hparams, hquiet⟩

end Sys2Proof.Machine

/-! The statements about one operation in all its modes: each follows from the operation's line of `operationStep` and
from the registers and flags its rule computes (R111 to R113, R130 to R142). -/

namespace Sys2Proof.Machine

/-! The state a completing instruction leaves. -/

/-- A step that commits with no control transfer leaves the instruction completed, its length being that of its operand
(R81). -/
theorem commit_eq_completed (i : Instr) (s t : State) (penalty : Nat) (b : Bus) :
    (commit i.operand i.base penalty none s t).setBus b = completed i s penalty b t := by
  simp [commit, completed, State.setBus, length_eq]

/-- An operation whose line is a read completes with the registers the line gives, in every mode. -/
theorem readsThen_of_readRow {op : Operation} {penalty : Resolved → Nat} {f : Byte → State → State}
    {effect : Byte → State → State → Prop}
    (hline : ∀ o base s, operationStep op o base s = readRow o base penalty f s)
    (heffect : ∀ m s, effect m s (f m s)) : ReadsThen op penalty effect := by
  rintro i s rfl
  have hexec : exec i s = readRow i.operand i.base penalty f s := (exec_eq_operationStep i s).trans (hline ..)
  refine ⟨fun r m b hread => ⟨f m s, heffect m s, ?_, ?_⟩, fun e b hread => ?_⟩
  · rw [hexec, readRow_ok hread, commit_eq_completed]
  · exact ((readOperand_readsTo _ s s.bus).ok hread).stored
  · rw [hexec, readRow_raised hread]

/-- An instruction whose step is on registers alone completes with the registers `f` gives. -/
theorem completesWith_of_impliedRow {i : Instr} {f : State → State} {effect : State → State → Prop}
    (hexec : ∀ s, exec i s = impliedRow i.base f s) (hoperand : i.operand = .implied)
    (heffect : ∀ s, effect s (f s)) : CompletesWith i effect := by
  refine fun s => ⟨f s, heffect s, ?_⟩
  rw [hexec, ← commit_eq_completed, hoperand]
  rfl

/-! Read, then write at the same address. -/

theorem Bus.ReadsTo.writeRule {b c : Bus} (h : b.ReadsTo c) (a : Word) : c.writeRule a = b.writeRule a := by
  simp only [Bus.writeRule, h.windows]

/-- A write that follows reads alone stores its byte, and no other, in the memory of before the reads. -/
theorem Bus.ReadsTo.storedByte {b c d : Bus} {a : Word} {v : Byte} (h : b.ReadsTo c) (hwrite : c.write a v = .ok () d) :
    StoredByte b d a v := by
  refine ⟨fun k hk => ?_, fun hwf hcells => ?_⟩
  · rw [Bus.stored_write_other hwrite hk, h.stored]
  · exact Bus.stored_write_same (h.cells ▸ hwf) ((h.writeRule a).trans hcells) hwrite

/-- The modes of the read-modify-write operations (R160): the accumulator, or an address found with no bus access. -/
def modifyModes : List AddressMode := [.accumulator, .zeroPage, .zeroPageX, .absolute, .absoluteX]

/-- In a mode of `modifyModes` other than Accumulator, the operand resolves to an address with no bus access. -/
theorem resolve_of_modifyModes {o : Operand} (hmode : o.mode ∈ modifyModes) (hacc : o ≠ .accumulator) (s : State)
    (b : Bus) : ∃ a c n, resolve o s b = .ok ⟨.address a, c, n⟩ b := by
  cases o with
  | accumulator => exact absurd rfl hacc
  | zeroPage | zeroPageX | absolute | absoluteX => exact ⟨_, _, _, rfl⟩
  | implied | immediate | zeroPageY | absoluteY | indirect | indirectX | indirectY | relative =>
    simp [modifyModes, Operand.mode] at hmode

section ModifyRow

variable {o : Operand} {base : Nat} {f : Byte → State → Byte × Byte} {s : State} {a : Word} {c : Bool} {n : Nat}
variable (hr : resolve o s s.bus = .ok ⟨.address a, c, n⟩ s.bus)

include hr

/-- A read-modify-write at an address, as the two accesses it makes (R59). -/
theorem modifyRow_of_address : modifyRow o base f s =
    finish s ((s.bus.read a).andThen fun v b1 => (b1.write a (f v s).1).andThen fun _ b2 =>
      .ok (commit o base 0 none s (s.setP (f v s).2)) b2) := by
  simp only [modifyRow, readOperand, hr, BusResult.ok_andThen, load]
  cases s.bus.read a with
  | ok v b1 =>
    simp only [BusResult.ok_andThen, store]
    cases b1.write a (f v s).1 <;> rfl
  | raised e b1 => rfl
  | noCase => rfl

theorem modifyRow_ok {v : Byte} {b1 b2 : Bus} (hread : s.bus.read a = .ok v b1)
    (hwrite : b1.write a (f v s).1 = .ok () b2) :
    modifyRow o base f s = .next ((commit o base 0 none s (s.setP (f v s).2)).setBus b2) := by
  simp only [modifyRow_of_address hr, hread, hwrite, BusResult.ok_andThen, finish_ok]

theorem modifyRow_write_raised {v : Byte} {e : Nat} {b1 b2 : Bus} (hread : s.bus.read a = .ok v b1)
    (hwrite : b1.write a (f v s).1 = .raised e b2) : modifyRow o base f s = raisedBy s e b2 := by
  simp only [modifyRow_of_address hr, hread, hwrite, BusResult.ok_andThen, BusResult.raised_andThen, finish_raised]
  rfl

theorem modifyRow_read_raised {e : Nat} {b1 : Bus} (hread : s.bus.read a = .raised e b1) :
    modifyRow o base f s = raisedBy s e b1 := by
  simp only [modifyRow_of_address hr, hread, BusResult.raised_andThen, finish_raised]
  rfl

end ModifyRow

/-- An operation whose line is a read-modify-write modifies memory by the result and the flags the line gives, in every
mode but Accumulator. -/
theorem modifiesMemory_of_modifyRow {op : Operation} {f : Byte → State → Byte × Byte}
    {flags : Byte → State → Flag → Bool}
    (hline : ∀ o base s, operationStep op o base s = modifyRow o base f s) (hmodes : op.modes ⊆ modifyModes)
    (hflags : ∀ v s, HasFlags (f v s).2 (flags v s)) : ModifiesMemory op (fun v s => (f v s).1) flags := by
  rintro i s rfl hacc
  have hexec : exec i s = modifyRow i.operand i.base f s := (exec_eq_operationStep i s).trans (hline ..)
  obtain ⟨a, c, n, hr⟩ := resolve_of_modifyModes (hmodes (mode_mem_modes i)) hacc s s.bus
  refine ⟨a, c, ?_, fun v b1 hread => ⟨fun b2 hwrite => ?_, fun e b2 hwrite => ?_⟩, fun e b1 hread => ?_⟩
  · simp only [operandAddress, hr, BusResult.ok_andThen]
  · refine ⟨(f v s).2, hflags v s, ?_, ((s.bus.read_readsTo a).ok hread).storedByte hwrite⟩
    rw [hexec, modifyRow_ok hr hread hwrite, commit_eq_completed]
    rfl
  · rw [hexec, modifyRow_write_raised hr hread hwrite]
  · rw [hexec, modifyRow_read_raised hr hread]

/-! Subtraction as addition of the complement (R133). -/

theorem xor_ff_eq_not (m : Byte) : m ^^^ 0xFF = ~~~m := BitVec.xor_allOnes

/-- The exact sum with the complement: 255 more than the difference. -/
theorem carrySum_complement (a m : Byte) (c : Bool) :
    carrySum a (m ^^^ 0xFF) c = a.toNat + (255 - m.toNat) + c.toNat := by
  rw [carrySum, xor_ff_eq_not, BitVec.toNat_not]

theorem sumByte_complement (a m : Byte) (c : Bool) :
    sumByte a (m ^^^ 0xFF) c = a - m - BitVec.ofNat 8 (1 - c.toNat) := by
  apply BitVec.eq_of_toNat_eq
  have ha := a.isLt
  have hm := m.isLt
  rw [sumByte, carrySum_complement]
  cases c <;> simp only [BitVec.toNat_ofNat, BitVec.toNat_sub, Bool.toNat_true, Bool.toNat_false] <;> omega

/-- The carry out of the sum is the absence of a borrow. -/
theorem sumCarry_complement (a m : Byte) (c : Bool) :
    sumCarry a (m ^^^ 0xFF) c = decide (m.toNat + (1 - c.toNat) ≤ a.toNat) := by
  have hm := m.isLt
  have hc := c.toNat_le
  rw [sumCarry, carrySum_complement, decide_eq_decide]
  omega

/-- The complement has the other sign. -/
theorem sumOverflow_complement (a m : Byte) (c : Bool) : sumOverflow a (m ^^^ 0xFF) c =
    ((a.getLsbD 7 != m.getLsbD 7) && ((sumByte a (m ^^^ 0xFF) c).getLsbD 7 != a.getLsbD 7)) := by
  have hsign : (m ^^^ 0xFF).getLsbD 7 = !m.getLsbD 7 := by simp
  rw [sumOverflow, hsign]
  cases a.getLsbD 7 <;> cases m.getLsbD 7 <;> rfl

/-- With C set, the subtraction leaves C, Z and N as the comparison does (R131). -/
theorem sumFlags_complement_of_carry {f : Flag} (hf : f ∈ [Flag.c, .z, .n]) (p q a m : Byte) :
    testFlag (sumFlags p a (m ^^^ 0xFF) true) f = testFlag (compareFlags q a m) f := by
  have hdiff : sumByte a (m ^^^ 0xFF) true = a - m := (sumByte_complement a m true).trans (BitVec.sub_zero _)
  have hzero : (a - m == 0) = (a == m) := by rw [Bool.eq_iff_iff, beq_iff_eq, beq_iff_eq, sub_eq_zero]
  rw [testFlag_sumFlags, testFlag_compareFlags, hdiff, hzero, sumCarry_complement]
  cases f <;> simp at hf ⊢

/-! The arithmetic instructions. -/

/-- Settles O1: ADC's line is a read, and its flags are those of the 9-bit sum. -/
theorem adcAddsWithCarry : Obligations.AdcAddsWithCarry := by
  refine ⟨rfl, readsThen_of_readRow (fun _ _ _ => rfl) fun m s => ⟨_, rfl, fun f => ?_⟩⟩
  rw [testFlag_sumFlags]
  cases f <;> rfl

/-- Settles O2: SBC's line is a read, and the sum with the complement is the difference with borrow. -/
theorem sbcSubtractsWithBorrow : Obligations.SbcSubtractsWithBorrow := by
  refine ⟨rfl, readsThen_of_readRow (fun _ _ _ => rfl) fun m s => ?_⟩
  refine ⟨sumFlags s.p s.a (m ^^^ 0xFF) (s.flag .c), ?_, fun f => ?_⟩
  · rw [← sumByte_complement]
    rfl
  · rw [testFlag_sumFlags, sumCarry_complement, sumOverflow_complement, sumByte_complement]
    cases f <;> rfl

/-- Settles O3: each compare's line is a read that writes P alone, by `compareFlags` of its register. -/
theorem comparesSetFlags : Obligations.ComparesSetFlags :=
  ⟨rfl, rfl, rfl,
    readsThen_of_readRow (fun _ _ _ => rfl) fun m s => ⟨_, rfl, testFlag_compareFlags s.p s.a m⟩,
    readsThen_of_readRow (fun _ _ _ => rfl) fun m s => ⟨_, rfl, testFlag_compareFlags s.p s.x m⟩,
    readsThen_of_readRow (fun _ _ _ => rfl) fun m s => ⟨_, rfl, testFlag_compareFlags s.p s.y m⟩⟩

/-- Settles O4: the lines of INC and DEC are read-modify-writes, in modes that address memory with no bus access. -/
theorem incDecModifyMemory : Obligations.IncDecModifyMemory :=
  ⟨rfl, rfl,
    modifiesMemory_of_modifyRow (op := .inc) (f := incByte) (fun _ _ _ => rfl) (by decide)
      fun v s => testFlag_setZN s.p (v + 1),
    modifiesMemory_of_modifyRow (op := .dec) (f := decByte) (fun _ _ _ => rfl) (by decide)
      fun v s => testFlag_setZN s.p (v - 1)⟩

/-- Settles O5: the four steps are on registers alone and set Z and N from the register they write. -/
theorem incDecIndexRegisters : Obligations.IncDecIndexRegisters :=
  ⟨rfl, rfl, rfl, rfl,
    completesWith_of_impliedRow (fun _ => rfl) rfl fun s => ⟨_, rfl, testFlag_setZN s.p (s.x + 1)⟩,
    completesWith_of_impliedRow (fun _ => rfl) rfl fun s => ⟨_, rfl, testFlag_setZN s.p (s.y + 1)⟩,
    completesWith_of_impliedRow (fun _ => rfl) rfl fun s => ⟨_, rfl, testFlag_setZN s.p (s.x - 1)⟩,
    completesWith_of_impliedRow (fun _ => rfl) rfl fun s => ⟨_, rfl, testFlag_setZN s.p (s.y - 1)⟩⟩

/-- Settles O57: SBC is ADC of the complement by definition, and with C set its C, Z and N are a comparison's. -/
theorem sbcIsAdcOfComplement : Obligations.SbcIsAdcOfComplement := by
  refine fun m s => ⟨⟨_, _, rfl, rfl, rfl, rfl⟩, _, _, rfl, rfl, ?_⟩
  have hagree {f : Flag} (hf : f ∈ [Flag.c, .z, .n]) : testFlag (compareFlags s.p s.a m) f =
      testFlag (sumFlags (setFlag s.p .c) s.a (m ^^^ 0xFF) (testFlag (setFlag s.p .c) .c)) f := by
    rw [testFlag_setFlag, if_pos rfl, sumFlags_complement_of_carry hf]
  exact ⟨hagree (by decide), hagree (by decide), hagree (by decide), rfl, testFlag_compareFlags s.p s.a m .v⟩

end Sys2Proof.Machine

/-! The bitwise logic instructions in all their modes (R150 to R153). -/

namespace Sys2Proof.Machine

/-- Settles O6: each line is a read that loads A with the bitwise result, so Z and N are set from it (`testFlag_setZN`). -/
theorem logicOnAccumulator : Obligations.LogicOnAccumulator :=
  ⟨rfl, rfl, rfl,
    readsThen_of_readRow (fun _ _ _ => rfl) fun m s => ⟨_, rfl, testFlag_setZN s.p (s.a ^^^ m)⟩,
    readsThen_of_readRow (fun _ _ _ => rfl) fun m s => ⟨_, rfl, testFlag_setZN s.p (s.a &&& m)⟩,
    readsThen_of_readRow (fun _ _ _ => rfl) fun m s => ⟨_, rfl, testFlag_setZN s.p (s.a ||| m)⟩⟩

/-- Settles O7: BIT's line is a read that writes P alone, by `bitFlags` of A and the operand. -/
theorem bitTestsMemory : Obligations.BitTestsMemory :=
  ⟨rfl, readsThen_of_readRow (fun _ _ _ => rfl) fun m s => ⟨_, rfl, testFlag_bitFlags s.p s.a m⟩⟩

end Sys2Proof.Machine

/-! The shifts and rotates on A and on memory (R160 to R164). -/

namespace Sys2Proof.Machine

/-! The Accumulator form of a read-modify-write. -/

theorem modifyRow_accumulator (base : Nat) (f : Byte → State → Byte × Byte) (s : State) :
    modifyRow .accumulator base f s =
      .next ((commit .accumulator base 0 none s ((s.setA (f s.a s).1).setP (f s.a s).2)).setBus s.bus) := rfl

/-- An operation whose line is a read-modify-write modifies A, in the Accumulator form, by the result and the flags the
line gives. -/
theorem modifiesA_of_modifyRow {op : Operation} {f : Byte → State → Byte × Byte} {flags : Byte → State → Flag → Bool}
    (hline : ∀ o base s, operationStep op o base s = modifyRow o base f s)
    (hflags : ∀ v s, HasFlags (f v s).2 (flags v s)) : ModifiesA op (fun v s => (f v s).1) flags := by
  rintro i s rfl hacc
  refine ⟨(f s.a s).2, hflags s.a s, ?_⟩
  rw [exec_eq_operationStep, hline, hacc, modifyRow_accumulator, ← hacc, commit_eq_completed]
  rfl

/-! The bits of a shifted byte. -/

/-- A 0 enters bit 7 of a byte shifted right. -/
theorem getLsbD_seven_ushiftRight_one (v : Byte) : (v >>> 1).getLsbD 7 = false := by
  rw [BitVec.getLsbD_ushiftRight, BitVec.getLsbD_of_ge _ _ le_rfl]

/-- P after LSR: N is always clear (R161). -/
theorem testFlag_shiftFlags_ushiftRight_one (p v : Byte) (out : Bool) (g : Flag) :
    testFlag (shiftFlags p out (v >>> 1)) g =
      match g with
      | .n => false
      | .z => v >>> 1 == 0
      | .c => out
      | f => testFlag p f := by
  rw [testFlag_shiftFlags]
  cases g with
  | n => exact getLsbD_seven_ushiftRight_one v
  | c | z | i | d | b | u | v => rfl

/-- ROR's result, bit by bit: each bit is the one above it, and bit 7 is the carry. -/
theorem getLsbD_rorResult (v : Byte) (c : Bool) (i : Nat) :
    (rorResult v c).getLsbD i = (v.getLsbD (1 + i) || (c && decide (7 = i))) := by
  have hcarry : (if c then 0x80 else 0x00 : Byte).getLsbD i = (c && decide (7 = i)) := by
    cases c with
    | false => exact BitVec.getLsbD_zero
    | true => exact (BitVec.getLsbD_twoPow (w := 8) 7 i).trans (by simp)
  rw [rorResult, BitVec.getLsbD_or, BitVec.getLsbD_ushiftRight, hcarry]

/-- ROR puts the carry in bit 7. -/
theorem getLsbD_seven_rorResult (v : Byte) (c : Bool) : (rorResult v c).getLsbD 7 = c := by
  rw [getLsbD_rorResult, BitVec.getLsbD_of_ge _ _ le_rfl]
  simp

/-- ROR of a byte shifted left, with the bit shifted out as the carry, is that byte. -/
theorem rorResult_shiftLeft_one (v : Byte) : rorResult (v <<< 1) (v.getLsbD 7) = v := by
  apply BitVec.eq_of_getLsbD_eq
  intro i hi
  rw [getLsbD_rorResult, BitVec.getLsbD_shiftLeft]
  by_cases h7 : 7 = i
  · subst h7
    simp
  · have hi7 : 1 + i < 8 := by omega
    simp [h7, hi7]

/-! The shift and rotate instructions. -/

/-- Settles O8: the lines of LSR and ASL are read-modify-writes, on A or on memory, whose flags are `shiftFlags` of the
result; LSR's result has bit 7 clear. -/
theorem shiftsMoveBits : Obligations.ShiftsMoveBits :=
  have hlsr (v : Byte) (s : State) := testFlag_shiftFlags_ushiftRight_one s.p v (v.getLsbD 0)
  have hasl (v : Byte) (s : State) := testFlag_shiftFlags s.p (v <<< 1) (v.getLsbD 7)
  ⟨rfl, rfl,
    modifiesA_of_modifyRow (op := .lsr) (f := lsrByte) (fun _ _ _ => rfl) hlsr,
    modifiesMemory_of_modifyRow (op := .lsr) (f := lsrByte) (fun _ _ _ => rfl) (by decide) hlsr,
    modifiesA_of_modifyRow (op := .asl) (f := aslByte) (fun _ _ _ => rfl) hasl,
    modifiesMemory_of_modifyRow (op := .asl) (f := aslByte) (fun _ _ _ => rfl) (by decide) hasl⟩

/-- Settles O9: the lines of ROL and ROR are read-modify-writes, on A or on memory, whose flags are `shiftFlags` of the
result that the old carry entered. -/
theorem rotatesGoThroughCarry : Obligations.RotatesGoThroughCarry :=
  have hrol (v : Byte) (s : State) := testFlag_shiftFlags s.p (rolResult v (s.flag .c)) (v.getLsbD 7)
  have hror (v : Byte) (s : State) := testFlag_shiftFlags s.p (rorResult v (s.flag .c)) (v.getLsbD 0)
  ⟨rfl, rfl,
    modifiesA_of_modifyRow (op := .rol) (f := rolByte) (fun _ _ _ => rfl) hrol,
    modifiesMemory_of_modifyRow (op := .rol) (f := rolByte) (fun _ _ _ => rfl) (by decide) hrol,
    modifiesA_of_modifyRow (op := .ror) (f := rorByte) (fun _ _ _ => rfl) hror,
    modifiesMemory_of_modifyRow (op := .ror) (f := rorByte) (fun _ _ _ => rfl) (by decide) hror⟩

/-- Settles O58: ASL leaves in C the bit 7 that ROR then puts back; N is bit 7 of the result, which is 0 for LSR and
the old carry for ROR. -/
theorem aslThenRorRestoresA : Obligations.AslThenRorRestoresA := by
  refine fun s => ⟨⟨_, _, rfl, rfl, ?_⟩, ⟨_, rfl, ?_⟩, _, rfl, ?_⟩
  · calc rorResult (s.a <<< 1) (testFlag (shiftFlags s.p (s.a.getLsbD 7) (s.a <<< 1)) .c)
      _ = rorResult (s.a <<< 1) (s.a.getLsbD 7) := by rw [testFlag_shiftFlags]
      _ = s.a := rorResult_shiftLeft_one s.a
  · exact testFlag_shiftFlags_ushiftRight_one s.p s.a (s.a.getLsbD 0) .n
  · calc testFlag (shiftFlags s.p (s.a.getLsbD 0) (rorResult s.a (s.flag .c))) .n
      _ = (rorResult s.a (s.flag .c)).getLsbD 7 := testFlag_shiftFlags ..
      _ = s.flag .c := getLsbD_seven_rorResult s.a _

end Sys2Proof.Machine

/-! The loads, the stores and the register transfers (R170 to R181). -/

namespace Sys2Proof.Machine

/-! A store resolves its operand, then makes one write. -/

section StoreRow

variable {o : Operand} {base : Nat} {v : Byte} {s : State}

theorem storeRow_ok {a : Word} {c : Bool} {b b1 : Bus} (haddr : operandAddress o s s.bus = .ok (a, c) b)
    (hwrite : b.write a v = .ok () b1) : storeRow o base v s = .next ((commit o base 0 none s s).setBus b1) := by
  simp only [storeRow, haddr, hwrite, BusResult.ok_andThen, finish_ok]

theorem storeRow_write_raised {a : Word} {c : Bool} {b b1 : Bus} {e : Nat}
    (haddr : operandAddress o s s.bus = .ok (a, c) b) (hwrite : b.write a v = .raised e b1) :
    storeRow o base v s = raisedBy s e b1 := by
  simp only [storeRow, haddr, hwrite, BusResult.ok_andThen, BusResult.raised_andThen, finish_raised]
  rfl

theorem storeRow_address_raised {b : Bus} {e : Nat} (haddr : operandAddress o s s.bus = .raised e b) :
    storeRow o base v s = raisedBy s e b := by
  simp only [storeRow, haddr, BusResult.raised_andThen, finish_raised]
  rfl

end StoreRow

/-- An operation whose line is a store of `value` writes that byte in every mode; the pointer reads before the write
leave memory as it was. -/
theorem storesByte_of_storeRow {op : Operation} {value : State → Byte}
    (hline : ∀ o base s, operationStep op o base s = storeRow o base (value s) s) : StoresByte op value := by
  rintro i s rfl a c b haddr
  have hexec : exec i s = storeRow i.operand i.base (value s) s := (exec_eq_operationStep i s).trans (hline ..)
  refine ⟨fun b1 hwrite => ⟨?_, ?_⟩, fun e b1 hwrite => ?_⟩
  · rw [hexec, storeRow_ok haddr hwrite, commit_eq_completed]
  · exact ((operandAddress_readsTo _ s s.bus).ok haddr).storedByte hwrite
  · rw [hexec, storeRow_write_raised haddr hwrite]

/-- STA ends with the error of a read of its pointer (R233). -/
theorem exec_sta_address_raised {i : Instr} {s : State} {e : Nat} {b : Bus} (hop : i.operation = .sta)
    (haddr : operandAddress i.operand s s.bus = .raised e b) : exec i s = raisedBy s e b := by
  rw [exec_eq_operationStep, hop]
  exact storeRow_address_raised haddr

/-- Settles O10: each line is a read that loads the register with the operand, so Z and N are set from it. -/
theorem loadsWriteRegister : Obligations.LoadsWriteRegister :=
  ⟨rfl, rfl, rfl,
    readsThen_of_readRow (fun _ _ _ => rfl) fun m s => ⟨_, rfl, testFlag_setZN s.p m⟩,
    readsThen_of_readRow (fun _ _ _ => rfl) fun m s => ⟨_, rfl, testFlag_setZN s.p m⟩,
    readsThen_of_readRow (fun _ _ _ => rfl) fun m s => ⟨_, rfl, testFlag_setZN s.p m⟩⟩

/-- Settles O11: each line is a store of its register, which ends with the first error of its accesses. -/
theorem storesWriteMemory : Obligations.StoresWriteMemory :=
  ⟨rfl, rfl, rfl,
    storesByte_of_storeRow fun _ _ _ => rfl,
    storesByte_of_storeRow fun _ _ _ => rfl,
    storesByte_of_storeRow fun _ _ _ => rfl,
    fun _ _ _ _ => exec_sta_address_raised⟩

/-- Settles O12: each step is on registers alone; those that load a register set Z and N from it, and TXS writes SP
alone. -/
theorem transfersCopyRegisters : Obligations.TransfersCopyRegisters :=
  ⟨rfl, rfl, rfl, rfl, rfl, rfl,
    completesWith_of_impliedRow (fun _ => rfl) rfl fun s => ⟨_, rfl, testFlag_setZN s.p s.a⟩,
    completesWith_of_impliedRow (fun _ => rfl) rfl fun s => ⟨_, rfl, testFlag_setZN s.p s.a⟩,
    completesWith_of_impliedRow (fun _ => rfl) rfl fun s => ⟨_, rfl, testFlag_setZN s.p s.x⟩,
    completesWith_of_impliedRow (fun _ => rfl) rfl fun s => ⟨_, rfl, testFlag_setZN s.p s.y⟩,
    completesWith_of_impliedRow (fun _ => rfl) rfl fun s => ⟨_, rfl, testFlag_setZN s.p s.sp⟩,
    completesWith_of_impliedRow (fun _ => rfl) rfl fun _ => rfl⟩

end Sys2Proof.Machine

/-! The stack instructions (R190 to R193). -/

namespace Sys2Proof.Machine

/-- An implied instruction whose step is a push that is taken completes with SP decremented. -/
theorem pushRow_completed {i : Instr} (hoperand : i.operand = .implied) {v : Byte} {s : State} {b : Bus}
    (hwrite : s.bus.write s.stackAddr v = .ok () b) :
    pushRow i.base v s = .next (completed i s 0 b { s with sp := s.sp - 1 }) := by
  rw [pushRow_ok hwrite, ← hoperand, commit_eq_completed]
  rfl

/-! A pull, by the answer of its one read. -/

section PullRow

variable {base : Nat} {f : Byte → State → State} {s : State} {b : Bus}

theorem pullRow_ok {v : Byte} (hread : s.bus.read (State.stackAddr { s with sp := s.sp + 1 }) = .ok v b) :
    pullRow base f s = .next ((commit .implied base 0 none s (f v { s with sp := s.sp + 1 })).setBus b) := by
  rw [pullRow, pull_of hread]
  rfl

theorem pullRow_raised {e : Nat} (hread : s.bus.read (State.stackAddr { s with sp := s.sp + 1 }) = .raised e b) :
    pullRow base f s = raisedBy s e b := by
  have hslot : s.bus.read (s.setSp (s.sp + 1)).stackAddr = .raised e b := hread
  simp only [pullRow, pull, hslot, BusResult.raised_andThen, finish_raised]
  rfl

/-- An implied instruction whose step is a pull that is answered completes with the registers `f` gives for the byte
pulled. -/
theorem pullRow_completed {i : Instr} (hoperand : i.operand = .implied) {v : Byte}
    (hread : s.bus.read (State.stackAddr { s with sp := s.sp + 1 }) = .ok v b) :
    pullRow i.base f s = .next (completed i s 0 b (f v { s with sp := s.sp + 1 })) := by
  rw [pullRow_ok hread, ← hoperand, commit_eq_completed]

end PullRow

/-- A push on a stack slot of plain memory completes, P unchanged, in a state whose pull reads the byte pushed and takes
SP back (R15, R62). -/
theorem pushRow_readsBack {s : State} (hinv : s.Inv) (hram : s.bus.IsRam s.stackAddr) (base : Nat) (v : Byte) :
    ∃ t c, pushRow base v s = .next t ∧ t.p = s.p ∧ t.sp + 1 = s.sp ∧
      t.bus.read (State.stackAddr { t with sp := t.sp + 1 }) = .ok v c := by
  obtain ⟨b, hwrite, -, ⟨c, hread⟩, -⟩ := memoryReadsBackWhatWasWritten s.bus s.stackAddr v hinv hram
  have hsp : s.sp - 1 + 1 = s.sp := BitVec.sub_add_cancel s.sp 1
  refine ⟨_, c, pushRow_ok hwrite, rfl, hsp, ?_⟩
  simpa only [commit, State.setSp, State.setBus, State.stackAddr, hsp] using hread

/-- Pulling the pushed copy of P gives P back: the push forces only the bits that the pull keeps (D9, D10). -/
theorem pulledStatus_pushedStatus (p : Byte) : pulledStatus p (pushedStatus p) = p := by
  refine status_ext fun f => ?_
  cases f <;> simp only [testFlag_pulledStatus, testFlag_pushedStatus]

/-- Settles O14: each step is a pull, whose one read leaves memory as it was; PLA sets Z and N from the byte pulled, and
PLP takes it for P but for bits 4 and 5. -/
theorem pullsReadStack : Obligations.PullsReadStack := by
  refine ⟨rfl, rfl, fun s v b hread => ⟨?_, ?_, ?_⟩, fun s e b hread => ⟨?_, ?_⟩⟩
  · exact ((s.bus.read_readsTo _).ok hread).stored
  · exact ⟨_, pullRow_completed (i := .pla) rfl hread, testFlag_setZN s.p v⟩
  · exact ⟨_, pullRow_completed (i := .plp) rfl hread, testFlag_pulledStatus s.p v⟩
  · exact pullRow_raised hread
  · exact pullRow_raised hread

/-- Settles O55: the pull answers the byte pushed, with SP back. -/
theorem pushThenPullRestores : Obligations.PushThenPullRestores := by
  intro s hinv hpage
  have hram : s.bus.IsRam s.stackAddr := hpage s.sp
  constructor
  · obtain ⟨t, c, hpush, -, hsp, hread⟩ := pushRow_readsBack hinv hram 3 s.a
    exact ⟨t, _, hpush, pullRow_ok hread, rfl, hsp⟩
  · obtain ⟨t, c, hpush, hp, hsp, hread⟩ := pushRow_readsBack hinv hram 3 (pushedStatus s.p)
    refine ⟨t, _, hpush, pullRow_ok hread, ?_, hsp⟩
    calc pulledStatus t.p (pushedStatus s.p)
      _ = pulledStatus s.p (pushedStatus s.p) := by rw [hp]
      _ = s.p := pulledStatus_pushedStatus s.p

/-- Settles O13: each step is a push, of A or of the copy of P with bits 4 and 5 set. -/
theorem pushesWriteStack : Obligations.PushesWriteStack := by
  refine ⟨rfl, rfl, fun s b hwrite => ⟨?_, ?_⟩, fun s e b hwrite => ?_, fun s b hwrite => ⟨?_, ?_⟩,
    fun s e b hwrite => ?_⟩
  · exact pushRow_completed (i := .pha) rfl hwrite
  · exact (Bus.ReadsTo.refl s.bus).storedByte hwrite
  · exact pushRow_raised hwrite
  · exact pushRow_completed (i := .php) rfl hwrite
  · exact (Bus.ReadsTo.refl s.bus).storedByte hwrite
  · exact pushRow_raised hwrite

end Sys2Proof.Machine

/-! The flag instructions (R200 to R206). -/

namespace Sys2Proof.Machine

/-- Settles O15: each step is on P alone, with the one flag cleared (`testFlag_clearFlag`) or set (`testFlag_setFlag`). -/
theorem flagInstructionsWriteOneFlag : Obligations.FlagInstructionsWriteOneFlag :=
  ⟨rfl, rfl, rfl, rfl, rfl, rfl, rfl,
    completesWith_of_impliedRow (fun _ => rfl) rfl fun s => ⟨_, rfl, testFlag_clearFlag s.p .c⟩,
    completesWith_of_impliedRow (fun _ => rfl) rfl fun s => ⟨_, rfl, testFlag_setFlag s.p .c⟩,
    completesWith_of_impliedRow (fun _ => rfl) rfl fun s => ⟨_, rfl, testFlag_clearFlag s.p .i⟩,
    completesWith_of_impliedRow (fun _ => rfl) rfl fun s => ⟨_, rfl, testFlag_setFlag s.p .i⟩,
    completesWith_of_impliedRow (fun _ => rfl) rfl fun s => ⟨_, rfl, testFlag_clearFlag s.p .d⟩,
    completesWith_of_impliedRow (fun _ => rfl) rfl fun s => ⟨_, rfl, testFlag_setFlag s.p .d⟩,
    completesWith_of_impliedRow (fun _ => rfl) rfl fun s => ⟨_, rfl, testFlag_clearFlag s.p .v⟩⟩

end Sys2Proof.Machine

/-! The branches and JMP (R210 to R219): each commits a target, or goes on to the next instruction. -/

namespace Sys2Proof.Machine

/-! The state a completing control transfer leaves. -/

/-- A step that commits a target leaves the instruction transferred to it. -/
theorem commit_eq_transferred (i : Instr) (o : Operand) (s t : State) (penalty : Nat) (target : Word) (b : Bus) :
    (commit o i.base penalty (some target) s t).setBus b = transferred i s penalty target b t := rfl

section Transfer

variable {α : Type} {s : State} {r : BusResult α} {b : Bus}

/-- A step that commits the target and the registers its accesses answer (R112). -/
theorem finish_andThen_transferred (i : Instr) (o : Operand) (target : α → Word) (left : α → State) {v : α}
    (h : r = .ok v b) :
    finish s (r.andThen fun v b => .ok (commit o i.base 0 (some (target v)) s (left v)) b) =
      .next (transferred i s 0 (target v) b (left v)) := by
  rw [h]
  rfl

/-- A step whose accesses raise an error commits nothing (R233, R236). -/
theorem finish_andThen_raised {e : Nat} (h : r = .raised e b) (k : α → Bus → BusResult State) :
    finish s (r.andThen k) = raisedBy s e b := by
  rw [h]
  rfl

end Transfer

/-! The branches. -/

/-- The instructions with a condition are the branches: a Relative operand, and the step of a branch on that
condition. -/
theorem exec_of_branchTaken {i : Instr} {s : State} {taken : Bool} (h : branchTaken s i.operation = some taken) :
    ∃ off, i.operand = .relative off ∧ exec i s = branchRow off taken s := by
  cases i with
  | bpl off | bvc off | bcc off | bne off =>
    obtain rfl := Option.some.inj h
    exact ⟨off, rfl, congrArg (branchRow off · s) (beq_false _).symm⟩
  | bmi off | bvs off | bcs off | beq off =>
    obtain rfl := Option.some.inj h
    exact ⟨off, rfl, congrArg (branchRow off · s) (beq_true _).symm⟩
  | _ => cases h

/-- What a branch leaves, by its condition. -/
theorem branchRow_eq {i : Instr} {off : Byte} (hoperand : i.operand = .relative off) (taken : Bool) (s : State) :
    branchRow off taken s = .next
      (if taken then
        transferred i s (if hi (s.pc + 2) ≠ hi (branchTarget s.pc off) then 2 else 1) (branchTarget s.pc off) s.bus s
      else completed i s 0 s.bus s) := by
  have hbase : i.base = 2 := base_of_relative (by rw [hoperand]; rfl)
  cases taken with
  | false =>
    calc branchRow off false s
      _ = .next ((commit (.relative off) 2 0 none s s).setBus s.bus) := rfl
      _ = .next (completed i s 0 s.bus s) := by rw [← hbase, ← hoperand, commit_eq_completed]
  | true =>
    calc branchRow off true s
      _ = .next ((commit (.relative off) 2 (if pageCross (s.pc + 2) (branchTarget s.pc off) then 2 else 1)
            (some (branchTarget s.pc off)) s s).setBus s.bus) := rfl
      _ = .next (transferred i s (if hi (s.pc + 2) ≠ hi (branchTarget s.pc off) then 2 else 1)
            (branchTarget s.pc off) s.bus s) := by
        rw [← hbase, commit_eq_transferred]
        simp only [pageCross, bne_iff_ne]

/-- Settles O16: the step of a branch on its condition, its target as R94 computes it. -/
theorem branchesTakeTheirCondition : Obligations.BranchesTakeTheirCondition := by
  refine ⟨rfl, rfl, rfl, rfl, rfl, rfl, rfl, rfl, fun i s taken htaken => ?_⟩
  obtain ⟨off, hoperand, hexec⟩ := exec_of_branchTaken htaken
  exact ⟨off, branchTarget s.pc off, hoperand, branchTarget_toNat s.pc off, hexec.trans (branchRow_eq hoperand taken s)⟩

/-! JMP. -/

/-- A read of a pair, as the two reads it makes. -/
theorem Bus.readPair_of {l h : Word} {u v : Byte} {b c d : Bus} (hlow : b.read l = .ok u c)
    (hhigh : c.read h = .ok v d) : b.readPair l h = .ok (concat v u) d := by
  simp only [Bus.readPair, hlow, hhigh, BusResult.ok_andThen]

/-- The operand of JMP Indirect is the Word its pointer reads answer (R219, D7). -/
theorem operandAddress_indirect (w : Word) (s : State) (b : Bus) : operandAddress (.indirect w) s b =
    (b.readPair w (concat (hi w) (lo w + 1))).andThen fun target c => .ok (target, false) c := by
  rw [operandAddress, resolve]
  cases b.readPair w (concat (hi w) (lo w + 1)) <;> rfl

theorem exec_jmpInd_ok {w target : Word} {s : State} {b : Bus}
    (h : s.bus.readPair w (concat (hi w) (lo w + 1)) = .ok target b) :
    exec (.jmpInd w) s = .next (transferred (.jmpInd w) s 0 target b s) := by
  have haddr : operandAddress (.indirect w) s s.bus = .ok (target, false) b := by
    rw [operandAddress_indirect, h, BusResult.ok_andThen]
  exact finish_andThen_transferred (.jmpInd w) (.indirect w) Prod.fst (fun _ => s) haddr

theorem exec_jmpInd_raised {w : Word} {s : State} {e : Nat} {b : Bus}
    (h : s.bus.readPair w (concat (hi w) (lo w + 1)) = .raised e b) : exec (.jmpInd w) s = raisedBy s e b :=
  finish_andThen_raised (by rw [operandAddress_indirect, h, BusResult.raised_andThen]) _

/-- Settles O17: JMP makes the reads of its pointer alone, and ends with the first error of them. -/
theorem jmpGoesToTarget : Obligations.JmpGoesToTarget := by
  refine ⟨rfl, fun w s => rfl, fun w s => ⟨fun l h b1 b2 hlow hhigh => ?_, fun e b1 hlow => ?_,
    fun l e b1 b2 hlow hhigh => ?_⟩⟩
  · have hpair := Bus.readPair_of hlow hhigh
    exact ⟨exec_jmpInd_ok hpair, ((s.bus.readPair_readsTo _ _).ok hpair).stored⟩
  · exact exec_jmpInd_raised (by rw [Bus.readPair, hlow, BusResult.raised_andThen])
  · exact exec_jmpInd_raised (by rw [Bus.readPair, hlow, BusResult.ok_andThen, hhigh, BusResult.raised_andThen])

end Sys2Proof.Machine

/-! The calls, the returns and the software trap (R220 to R223, R238, R239). -/

namespace Sys2Proof.Machine

/-! Each step, by what its pushes or pulls answer. -/

section Exec

variable {s t : State} {b : Bus} {target : Word}

theorem exec_jsr_ok {w : Word} (h : pushWord (s.pc + 2) s s.bus = .ok t b) :
    exec (.jsr w) s = .next (transferred (.jsr w) s 0 w b t) :=
  finish_andThen_transferred (.jsr w) (.absolute w) (fun _ => w) id h

theorem exec_rts_ok (h : pullWord s s.bus = .ok (target, t) b) :
    exec .rts s = .next (transferred .rts s 0 (target + 1) b t) :=
  finish_andThen_transferred .rts .implied (fun ws : Word × State => ws.1 + 1) Prod.snd h

theorem exec_brk_ok (h : enterTrap (s.pc + 2) s.params.brkVector s s.bus = .ok (target, t) b) :
    exec .brk s = .next (transferred .brk s 0 target b t) :=
  finish_andThen_transferred .brk .implied Prod.fst Prod.snd h

theorem exec_rti_ok (h : returnFromTrap s s.bus = .ok (target, t) b) :
    exec .rti s = .next (transferred .rti s 0 target b t) :=
  finish_andThen_transferred .rti .implied Prod.fst Prod.snd h

end Exec

/-! Pushes and pulls, by their accesses. -/

section Stack

variable {s : State} {b c d : Bus}

/-- A push of a Word, as the two writes it makes. -/
theorem pushWord_of {w : Word} (hhi : b.write s.stackAddr (hi w) = .ok () c)
    (hlo : c.write (stackSlot s (s.sp - 1)) (lo w) = .ok () d) : pushWord w s b = .ok { s with sp := s.sp - 2 } d := by
  have hpush : push (lo w) (s.setSp (s.sp - 1)) c = .ok { s with sp := s.sp - 1 - 1 } d := push_of hlo
  have hsp : s.sp - 1 - 1 = s.sp - 2 := by bv_omega
  rw [pushWord, push_of hhi, BusResult.ok_andThen, hpush, hsp]

/-- A pull of a Word, as the two reads it makes. -/
theorem pullWord_of {l h : Byte} (hlow : b.read (stackSlot s (s.sp + 1)) = .ok l c)
    (hhigh : c.read (stackSlot s (s.sp + 2)) = .ok h d) :
    pullWord s b = .ok (concat h l, { s with sp := s.sp + 2 }) d := by
  have hsp : s.sp + 1 + 1 = s.sp + 2 := by bv_omega
  rw [← hsp] at hhigh ⊢
  have hpull : pull (s.setSp (s.sp + 1)) c = .ok (h, { s with sp := s.sp + 1 + 1 }) d := pull_of hhigh
  rw [pullWord, pull_of hlow, BusResult.ok_andThen, hpull, BusResult.ok_andThen]

/-- Trap entry, as the three writes and the two reads it makes (R238). -/
theorem enterTrap_of {ret vector : Word} {l h : Byte} {b1 b2 b3 : Bus} (hhi : b.write s.stackAddr (hi ret) = .ok () b1)
    (hlo : b1.write (stackSlot s (s.sp - 1)) (lo ret) = .ok () b2)
    (hstatus : b2.write (stackSlot s (s.sp - 2)) (pushedStatus s.p) = .ok () b3)
    (hlow : b3.read vector = .ok l c) (hhigh : c.read (vector + 1) = .ok h d) :
    enterTrap ret vector s b = .ok (concat h l, { s with sp := s.sp - 3, p := setFlag s.p .i }) d := by
  have hpush : push (pushedStatus s.p) { s with sp := s.sp - 2 } b2 = .ok { s with sp := s.sp - 2 - 1 } b3 :=
    push_of hstatus
  have hsp : s.sp - 2 - 1 = s.sp - 3 := by bv_omega
  rw [enterTrap, pushWord_of hhi hlo, BusResult.ok_andThen, hpush, hsp]
  rw [BusResult.ok_andThen, Bus.readWord, Bus.readPair_of hlow hhigh]
  rfl

/-- Trap return, as the three reads it makes (R239). -/
theorem returnFromTrap_of {v l h : Byte} {b1 : Bus} (hstatus : b.read (stackSlot s (s.sp + 1)) = .ok v b1)
    (hlow : b1.read (stackSlot s (s.sp + 2)) = .ok l c) (hhigh : c.read (stackSlot s (s.sp + 3)) = .ok h d) :
    returnFromTrap s b = .ok (concat h l, { s with sp := s.sp + 3, p := pulledStatus s.p v }) d := by
  have hsp2 : s.sp + 1 + 1 = s.sp + 2 := by bv_omega
  have hsp3 : s.sp + 1 + 2 = s.sp + 3 := by bv_omega
  rw [← hsp2] at hlow
  rw [← hsp3] at hhigh ⊢
  rw [returnFromTrap, pull_of hstatus, BusResult.ok_andThen]
  exact pullWord_of (s := (s.setSp (s.sp + 1)).setP (pulledStatus s.p v)) hlow hhigh

end Stack

/-! What the pushes leave in memory. -/

/-- Different stack pointers give different stack slots. -/
theorem stackSlot_ne (s : State) {m n : Byte} (h : m ≠ n) : stackSlot s m ≠ stackSlot s n := stackAddr_ne h

theorem Bus.Reaches.readRule {b c : Bus} (h : b.Reaches c) (a : Word) : c.readRule a = b.readRule a :=
  Bus.readRule_eq_of_windows h.windows a

theorem Bus.Reaches.writeRule {b c : Bus} (h : b.Reaches c) (a : Word) : c.writeRule a = b.writeRule a := by
  simp only [Bus.writeRule, h.windows]

/-- After other accesses, a write of memory still stores its byte. -/
theorem Bus.Reaches.stored_write {b c d : Bus} {a : Word} {v : Byte} (h : b.Reaches c) (hwf : Memory.wf b.cells = true)
    (hcells : b.writeRule a = .cells) (hwrite : c.write a v = .ok () d) : d.stored a = v :=
  Bus.stored_write_same (h.wf hwf) ((h.writeRule a).trans hcells) hwrite

section Pushed

variable {s t : State} {b c d : Bus}

theorem pushWord_stored_other {w : Word} (h : pushWord w s b = .ok t c) {k : Word} (hhi : k ≠ s.stackAddr)
    (hlo : k ≠ stackSlot s (s.sp - 1)) : c.stored k = b.stored k := by
  obtain ⟨-, d, hwhi, hwlo⟩ := pushWord_ok h
  rw [Bus.stored_write_other hwlo hlo, Bus.stored_write_other hwhi hhi]

/-- Where the map says memory, the two slots hold the Word pushed, its high byte above its low byte. -/
theorem pushWord_stored {w : Word} (h : pushWord w s b = .ok t c) (hwf : Memory.wf b.cells = true)
    (hhi : b.writeRule s.stackAddr = .cells) (hlo : b.writeRule (stackSlot s (s.sp - 1)) = .cells) :
    c.stored s.stackAddr = hi w ∧ c.stored (stackSlot s (s.sp - 1)) = lo w := by
  obtain ⟨-, d, hwhi, hwlo⟩ := pushWord_ok h
  have hne : s.stackAddr ≠ stackSlot s (s.sp - 1) := stackSlot_ne s (by bv_omega)
  refine ⟨?_, ((b.write_reaches _ _).ok hwhi).stored_write hwf hlo hwlo⟩
  rw [Bus.stored_write_other hwlo hne]
  exact (Bus.Reaches.refl b).stored_write hwf hhi hwhi

theorem enterTrap_stored_other {ret vector w : Word} (h : enterTrap ret vector s b = .ok (w, t) c) {k : Word}
    (hhi : k ≠ s.stackAddr) (hlo : k ≠ stackSlot s (s.sp - 1)) (hstatus : k ≠ stackSlot s (s.sp - 2)) :
    c.stored k = b.stored k := by
  obtain ⟨-, d, e, hret, hwrite, hvector⟩ := enterTrap_ok h
  rw [((e.readPair_readsTo _ _).ok hvector).stored, Bus.stored_write_other hwrite hstatus,
    pushWord_stored_other hret hhi hlo]

/-- Where the map says memory in the stack page, the three slots hold the return address and the pushed copy of P. -/
theorem enterTrap_stored {ret vector w : Word} (h : enterTrap ret vector s b = .ok (w, t) c)
    (hwf : Memory.wf b.cells = true) (hpage : ∀ n, b.writeRule (stackSlot s n) = .cells) :
    c.stored s.stackAddr = hi ret ∧ c.stored (stackSlot s (s.sp - 1)) = lo ret ∧
      c.stored (stackSlot s (s.sp - 2)) = pushedStatus s.p := by
  obtain ⟨-, d, e, hret, hwrite, hvector⟩ := enterTrap_ok h
  obtain ⟨hhi, hlo⟩ := pushWord_stored hret hwf (hpage s.sp) (hpage _)
  have hne : s.stackAddr ≠ stackSlot s (s.sp - 2) := stackSlot_ne s (by bv_omega)
  have hne1 : stackSlot s (s.sp - 1) ≠ stackSlot s (s.sp - 2) := stackSlot_ne s (by bv_omega)
  simp only [((e.readPair_readsTo _ _).ok hvector).stored]
  refine ⟨?_, ?_, ?_⟩
  · exact (Bus.stored_write_other hwrite hne).trans hhi
  · exact (Bus.stored_write_other hwrite hne1).trans hlo
  · exact ((pushWord_reaches _ _ _).ok hret).stored_write hwf (hpage _) hwrite

end Pushed

/-- The pushed copy of P, as R222 writes it. -/
theorem pushedStatus_eq (p : Byte) : pushedStatus p = p ||| 0x30 := rfl

/-- Settles O18: JSR pushes the return address, and its accesses are those of that push. -/
theorem jsrPushesReturnAddress : Obligations.JsrPushesReturnAddress := by
  refine ⟨rfl, fun w s b1 b2 hhi hlo => ?_, fun w s e b h => finish_andThen_raised h _⟩
  have hpush := pushWord_of (s := s) hhi hlo
  exact ⟨exec_jsr_ok hpush, fun k => pushWord_stored_other hpush,
    fun hwf hram hram1 => pushWord_stored hpush hwf hram.2 hram1.2⟩

/-- Settles O19: RTS pulls a Word, and its accesses are those of that pull. -/
theorem rtsReturnsPastTheCall : Obligations.RtsReturnsPastTheCall := by
  refine ⟨rfl, fun s l h b1 b2 hlow hhigh => ?_, fun s e b h => finish_andThen_raised h _⟩
  have hpull := pullWord_of (s := s) hlow hhigh
  exact ⟨exec_rts_ok hpull, ((pullWord_readsTo s s.bus).ok hpull).stored⟩

/-- Settles O20: BRK enters the trap, whose three writes are at different slots of the stack page. -/
theorem brkTakesTheTrap : Obligations.BrkTakesTheTrap := by
  refine ⟨rfl, rfl, fun s b1 b2 b3 b4 b5 l h hhi hlo hstatus hlow hhigh => ?_,
    fun s e b h => finish_andThen_raised h _⟩
  rw [← pushedStatus_eq] at hstatus ⊢
  have htrap := enterTrap_of (s := s) hhi hlo hstatus hlow hhigh
  exact ⟨⟨_, exec_brk_ok htrap, testFlag_setFlag s.p .i⟩, fun k => enterTrap_stored_other htrap,
    fun hwf hram => enterTrap_stored htrap hwf fun n => (hram n).2⟩

/-- Settles O21: RTI returns from the trap, whose accesses are reads alone. -/
theorem rtiRestoresStatusAndPc : Obligations.RtiRestoresStatusAndPc := by
  refine ⟨rfl, fun s v l h b1 b2 b3 hstatus hlow hhigh => ?_, fun s e b h => finish_andThen_raised h _⟩
  have hret := returnFromTrap_of (s := s) hstatus hlow hhigh
  exact ⟨⟨_, exec_rti_ok hret, testFlag_pulledStatus s.p v⟩, ((returnFromTrap_readsTo s s.bus).ok hret).stored⟩

/-! A return after the call or the trap. -/

/-- On a stack page of memory, a push of a Word is taken. -/
theorem pushWord_completes {s : State} {b : Bus} (w : Word) (hpage : ∀ n, b.writeRule (stackSlot s n) = .cells) :
    ∃ c, pushWord w s b = .ok { s with sp := s.sp - 2 } c := by
  have hwrite := Bus.write_of_cells (hi w) (hpage s.sp)
  have hreach := (b.write_reaches _ _).ok hwrite
  exact ⟨_, pushWord_of hwrite (Bus.write_of_cells (lo w) ((hreach.writeRule _).trans (hpage (s.sp - 1))))⟩

/-- After reads alone, a read of memory answers what was stored there. -/
theorem Bus.ReadsTo.read_of_stored {b c : Bus} (h : b.ReadsTo c) {a : Word} {v : Byte} (hcells : b.readRule a = .cells)
    (hv : b.stored a = v) : ∃ d, b.ReadsTo d ∧ c.read a = .ok v d := by
  have hread := Bus.read_of_cells ((h.readRule a).trans hcells)
  refine ⟨_, h.trans ((c.read_readsTo a).ok hread), ?_⟩
  rw [hread, h.stored, hv]

section Stored

variable {s : State} {b : Bus} (hpage : ∀ n, b.readRule (stackSlot s n) = .cells) {w : Word}

include hpage

/-- On a stack page of memory, a pull answers the Word stored above SP. -/
theorem pullWord_of_stored (hlo : b.stored (stackSlot s (s.sp + 1)) = lo w)
    (hhi : b.stored (stackSlot s (s.sp + 2)) = hi w) : ∃ c, pullWord s b = .ok (w, { s with sp := s.sp + 2 }) c := by
  obtain ⟨c, hto, hlow⟩ := (Bus.ReadsTo.refl b).read_of_stored (hpage _) hlo
  obtain ⟨d, -, hhigh⟩ := hto.read_of_stored (hpage _) hhi
  exact ⟨d, concat_hi_lo w ▸ pullWord_of hlow hhigh⟩

/-- On a stack page of memory, trap return answers the status and the Word stored above SP. -/
theorem returnFromTrap_of_stored {v : Byte} (hv : b.stored (stackSlot s (s.sp + 1)) = v)
    (hlo : b.stored (stackSlot s (s.sp + 2)) = lo w) (hhi : b.stored (stackSlot s (s.sp + 3)) = hi w) :
    ∃ c, returnFromTrap s b = .ok (w, { s with sp := s.sp + 3, p := pulledStatus s.p v }) c := by
  obtain ⟨c, hto, hstatus⟩ := (Bus.ReadsTo.refl b).read_of_stored (hpage _) hv
  obtain ⟨d, hto, hlow⟩ := hto.read_of_stored (hpage _) hlo
  obtain ⟨e, -, hhigh⟩ := hto.read_of_stored (hpage _) hhi
  exact ⟨e, concat_hi_lo w ▸ returnFromTrap_of hstatus hlow hhigh⟩

end Stored

/-- Settles O54: the pull of RTS answers the Word that JSR pushed, PC + 2. -/
theorem jsrThenRtsReturns : Obligations.JsrThenRtsReturns := by
  intro w s hinv hram
  obtain ⟨b, hpush⟩ := pushWord_completes (s := s) (s.pc + 2) fun n => (hram n).2
  obtain ⟨hhi, hlo⟩ := pushWord_stored hpush hinv (hram _).2 (hram _).2
  have hpage (n : Byte) : b.readRule (stackSlot s n) = .cells :=
    (((pushWord_reaches _ _ _).ok hpush).readRule _).trans (hram n).1
  have hsp1 : s.sp - 2 + 1 = s.sp - 1 := by bv_omega
  have hsp2 : s.sp - 2 + 2 = s.sp := BitVec.sub_add_cancel s.sp 2
  obtain ⟨c, hpull⟩ := pullWord_of_stored (s := transferred (.jsr w) s 0 w b { s with sp := s.sp - 2 }) hpage
    ((congrArg (b.stored <| stackSlot s ·) hsp1).trans hlo) ((congrArg (b.stored <| stackSlot s ·) hsp2).trans hhi)
  exact ⟨_, _, exec_jsr_ok hpush, rfl, exec_rts_ok hpull, BitVec.add_assoc s.pc 2 1, hsp2, rfl, rfl, rfl, rfl⟩

/-- Pulling the pushed copy of P gives P back, though I was set in between (D10, D11). -/
theorem pulledStatus_setFlag_i_pushedStatus (p : Byte) : pulledStatus (setFlag p .i) (pushedStatus p) = p := by
  refine status_ext fun f => ?_
  cases f <;> simp

/-- Settles O56: trap return answers the status and the Word that BRK pushed. -/
theorem brkThenRtiReturns : Obligations.BrkThenRtiReturns := by
  intro s hbus hinv hram
  obtain ⟨⟨target, t⟩, b, htrap, -⟩ := enterTrap_answers (s.pc + 2) s.params.brkVector s hbus
  obtain ⟨hhi, hlo, hstatus⟩ := enterTrap_stored htrap hinv fun n => (hram n).2
  have hpage (n : Byte) : b.readRule (stackSlot s n) = .cells :=
    (((enterTrap_reaches _ _ _ _).ok htrap).readRule _).trans (hram n).1
  obtain ⟨rfl, -⟩ := enterTrap_ok htrap
  have hsp1 : s.sp - 3 + 1 = s.sp - 2 := by bv_omega
  have hsp2 : s.sp - 3 + 2 = s.sp - 1 := by bv_omega
  have hsp3 : s.sp - 3 + 3 = s.sp := BitVec.sub_add_cancel s.sp 3
  obtain ⟨c, hret⟩ := returnFromTrap_of_stored
    (s := transferred .brk s 0 target b { s with sp := s.sp - 3, p := setFlag s.p .i }) hpage
    ((congrArg (b.stored <| stackSlot s ·) hsp1).trans hstatus)
    ((congrArg (b.stored <| stackSlot s ·) hsp2).trans hlo) ((congrArg (b.stored <| stackSlot s ·) hsp3).trans hhi)
  exact ⟨_, _, exec_brk_ok htrap, testFlag_setFlag s.p .i .i, exec_rti_ok hret, rfl,
    pulledStatus_setFlag_i_pushedStatus s.p, hsp3, rfl, rfl, rfl⟩

end Sys2Proof.Machine

/-! NOP and the bytes that are no instruction (R224, R231). -/

namespace Sys2Proof.Machine

/-! A byte is never both negative and zero. -/

/-- N and Z are not both set, as after every operation that sets both from one byte (R15). -/
def NZExclusive (p : Byte) : Prop := (testFlag p .n && testFlag p .z) = false

theorem nzExclusive_of_byte {p v : Byte} (hn : testFlag p .n = v.getLsbD 7) (hz : testFlag p .z = (v == 0)) :
    NZExclusive p := by
  by_cases hv : v = 0
  · rw [NZExclusive, hn, hv]
    rfl
  · rw [NZExclusive, hz, beq_false_of_ne hv, Bool.and_false]

theorem nzExclusive_setZN (p v : Byte) : NZExclusive (setZN p v) :=
  nzExclusive_of_byte (testFlag_setZN p v .n) (testFlag_setZN p v .z)

/-- The byte of a compare is the difference, which is zero where the two are equal (R131). -/
theorem nzExclusive_compareFlags (p t m : Byte) : NZExclusive (compareFlags p t m) := by
  refine nzExclusive_of_byte (v := t - m) (testFlag_compareFlags p t m .n) ?_
  rw [testFlag_compareFlags, Bool.eq_iff_iff, beq_iff_eq, beq_iff_eq]
  exact sub_eq_zero.symm

/-- BIT's Z is of `A AND M` and its N of `M`, which are one byte where A is 0xFF (R153). -/
theorem nzExclusive_bitFlags (p m : Byte) : NZExclusive (bitFlags p 0xFF m) := by
  refine nzExclusive_of_byte (v := m) (testFlag_bitFlags p 0xFF m .n) ?_
  rw [testFlag_bitFlags, show (0xFF : Byte) &&& m = m from BitVec.allOnes_and]

/-! The steps that do something, each in a state that shows it. -/

/-- A state that tells operations from NOP: A is 0xFF, X and SP differ, and P is the given byte. -/
def probe (p : Byte) : State := { State.reset with a := 0xFF, x := 0x01, p := p }

/-- In every state the operation goes on to the next instruction, charges its base cycles, and does nothing else. -/
def Idle (op : Operation) (o : Operand) (base : Nat) : Prop :=
  ∀ s, operationStep op o base s = .next (commit o base 0 none s s)

/-- No accesses lead back to the bus they were made on. -/
theorem Bus.Makes.eq_nil {b : Bus} {xs : List (AccessKind × Word)} (h : b.Makes b xs) : xs = [] := by
  obtain ⟨new, hlog, rfl, -⟩ := h
  rw [List.self_eq_append_left.1 hlog]
  rfl

/-- An idle operation makes no access. -/
theorem Idle.accesses_eq_nil {op : Operation} {o : Operand} {base : Nat} (h : Idle op o base)
    (hm : o.mode ∈ op.modes) (s : State) :
    pointerAccesses s o = [] ∧ ∃ r, dataAccesses s op r = [] := by
  obtain ⟨r, -, -, hmakes⟩ := operationStep_accesses hm (h s)
  obtain ⟨hpointer, hdata⟩ := List.append_eq_nil_iff.1 hmakes.eq_nil
  exact ⟨hpointer, r.operand, hdata⟩

section Rows

variable {o : Operand} {base : Nat} {s : State}

theorem readRow_ne_idle {pen : Resolved → Nat} {f : Byte → State → State} (hs : ¬NZExclusive s.p)
    (hf : ∀ m, NZExclusive (f m s).p) : readRow o base pen f s ≠ .next (commit o base 0 none s s) := by
  intro h
  obtain ⟨_, m, _, -, ht⟩ := readRow_next h
  have hp : s.p = (f m s).p := by simpa using congrArg State.p ht
  exact hs (hp ▸ hf m)

theorem modifyRow_ne_idle {f : Byte → State → Byte × Byte} (hs : ¬NZExclusive s.p)
    (hf : ∀ m, NZExclusive (f m s).2) : modifyRow o base f s ≠ .next (commit o base 0 none s s) := by
  intro h
  obtain ⟨_, m, _, _, _, -, -, ht⟩ := modifyRow_next h
  have hp : s.p = (f m s).2 := by simpa using congrArg State.p ht
  exact hs (hp ▸ hf m)

theorem storeRow_ne_idle {v : Byte} : storeRow o base v s ≠ .next (commit o base 0 none s s) := by
  intro h
  obtain ⟨a, b, c, haddr, hwrite, ht⟩ := storeRow_next h
  obtain ⟨-, hmakes⟩ := operandAddress_makes haddr
  obtain rfl : s.bus = c := by simpa using congrArg State.bus ht
  exact List.append_ne_nil_of_right_ne_nil _ (List.cons_ne_nil _ _) (hmakes.trans (Bus.write_makes hwrite)).eq_nil

/-- An idle step on registers alone keeps them. -/
theorem impliedRow_idle {f : State → State} (h : impliedRow base f s = .next (commit o base 0 none s s)) :
    (f s).p = s.p ∧ (f s).sp = s.sp := by
  have ht := impliedRow_next h
  exact ⟨by simpa using (congrArg State.p ht).symm, by simpa using (congrArg State.sp ht).symm⟩

/-- A branch taken charges for it, even to the next instruction (D18). -/
theorem branchRow_true_ne_idle {off : Byte} : branchRow off true s ≠ .next (commit o 2 0 none s s) := by
  intro h
  obtain ⟨-, -, -, -, -, -, hcycles⟩ := branchRow_next h
  simp only [commit_cycles, if_true] at hcycles
  split at hcycles <;> omega

/-- JMP to its own address stays there. -/
theorem jumpRow_absolute_ne_idle {w : Word} (hpc : s.pc = w) :
    jumpRow (.absolute w) base s ≠ .next (commit (.absolute w) base 0 none s s) := by
  intro h
  have htarget : w = s.pc + 3 := congrArg State.pc (Host.Outcome.next.inj h)
  bv_omega

end Rows

/-- Every operation but NOP makes an access, or does something in a probe state or at the target of a JMP. -/
theorem Idle.eq_nop {op : Operation} {o : Operand} {base : Nat} (h : Idle op o base) (hm : o.mode ∈ op.modes)
    (hbase : o.mode = .relative → base = 2) : op = .nop := by
  obtain ⟨hpointer, r, hdata⟩ := h.accesses_eq_nil hm (probe 0xFF)
  have hset := h (probe 0xFF)
  have hclear := h (probe 0x00)
  have hboth : ¬NZExclusive (probe 0xFF).p := Bool.noConfusion
  unfold operationStep at hset hclear
  cases op with
  | nop => rfl
  | adc | sbc | eor | and | ora | lda | ldx | ldy =>
    exact absurd hset (readRow_ne_idle hboth fun _ => nzExclusive_setZN ..)
  | cmp | cpx | cpy => exact absurd hset (readRow_ne_idle hboth fun _ => nzExclusive_compareFlags ..)
  | bit => exact absurd hset (readRow_ne_idle hboth fun _ => nzExclusive_bitFlags ..)
  | inc | dec | lsr | asl | rol | ror => exact absurd hset (modifyRow_ne_idle hboth fun _ => nzExclusive_setZN ..)
  | sta | stx | sty => exact absurd hset storeRow_ne_idle
  | inx | iny | dex | dey | tax | tay | txa | tya | tsx =>
    exact absurd ((impliedRow_idle hset).1 ▸ nzExclusive_setZN ..) hboth
  | txs => exact absurd (impliedRow_idle hset).2 (by decide)
  | clc | cli | cld | clv => exact absurd (impliedRow_idle hset).1 (by decide)
  | sec | sei | sed => exact absurd (impliedRow_idle hclear).1 (by decide)
  | pha | php | pla | plp | jsr | rts | brk | rti => exact absurd hdata (List.cons_ne_nil _ _)
  | bpl | bvc | bcc | bne =>
    obtain ⟨off, rfl⟩ := relative_of_mode (List.mem_singleton.1 hm)
    obtain rfl := hbase rfl
    exact absurd hclear branchRow_true_ne_idle
  | bmi | bvs | bcs | beq =>
    obtain ⟨off, rfl⟩ := relative_of_mode (List.mem_singleton.1 hm)
    obtain rfl := hbase rfl
    exact absurd hset branchRow_true_ne_idle
  | jmp =>
    cases o with
    | absolute w => exact absurd (h { probe 0x00 with pc := w }) (jumpRow_absolute_ne_idle rfl)
    | indirect w => exact absurd hpointer (List.cons_ne_nil _ _)
    | _ => simp [Operation.modes, Operand.mode] at hm

/-- An instruction that does nothing, in every state, is NOP. -/
theorem eq_nop_of_completesWith {i : Instr} (h : CompletesWith i fun s t => t = s) : i = .nop := by
  have hidle : Idle i.operation i.operand i.base := by
    intro s
    obtain ⟨t, rfl, hexec⟩ := h s
    rw [← exec_eq_operationStep, hexec, ← commit_eq_completed]
    rfl
  have hop : i.operation = .nop := hidle.eq_nop (mode_mem_modes i) base_of_relative
  cases i with
  | nop => rfl
  | _ => cases hop

/-! A byte that is no opcode. -/

/-- A Running core that fetches a byte with no table entry raises a DecodeError with it (R231). -/
theorem step_of_undefined {s : State} {op : Byte} {b : Bus} (hmode : s.mode = .running)
    (hread : s.bus.read s.pc = .ok op b) (hop : findByte op = none) :
    step s = .fault (.decodeError op s.pc (faultedState (.decodeError op s.pc) s b)) := by
  have hfetch : fetch s = .ok (.undefined op) b := by
    rw [fetch, hread, BusResult.ok_andThen]
    split
    · rfl
    · rw [hop]
  simp only [step, hmode, hfetch]

/-- Settles O22: NOP's step is on no register; every other operation does something in some state (`Idle.eq_nop`);
and a byte R100 lists has no row for the fetch to find. -/
theorem nopDoesNothing : Obligations.NopDoesNothing :=
  ⟨rfl, completesWith_of_impliedRow (f := id) (fun _ => rfl) rfl fun _ => rfl,
    fun _ => eq_nop_of_completesWith, rfl, fun op => (findByte_eq_none_iff op).2,
    fun _ op _ hmode hread hop => ⟨_, step_of_undefined hmode hread ((findByte_eq_none_iff op).2 hop)⟩⟩

end Sys2Proof.Machine

/-! The errors of a step and the faulted core: what a DecodeError, a bus error and a refusal leave, and where in the
order of the accesses they end a step (R230 to R237, R242). -/

namespace Sys2Proof.Machine

/-! A core that is not Running. -/

/-- `step()` is refused in every lifecycle state but Running (R234, R235). -/
theorem step_of_not_running {s : State} (h : s.mode ≠ .running) : step s = .refused .notPowered := by
  unfold step
  cases hm : s.mode with
  | running => exact absurd hm h
  | unpowered | faulted => rfl

theorem hostCall_step_of_not_running {s : State} (h : s.mode ≠ .running) :
    hostCall .step s = (.refused .notPowered, s) := by
  simp only [hostCall, step_of_not_running h, runCall]

/-- Settles O40: of the seven calls, `step()` and the accessors each refuse an Unpowered core. -/
theorem stepRefusedWithoutPower : Obligations.StepRefusedWithoutPower := by
  intro s c hm hc
  refine ⟨?_, step_of_not_running (by simp [hm])⟩
  cases c with
  | step => exact hostCall_step_unpowered hm
  | readA | readX | readY | readStatus | readPc | readCycles => exact readCall_access_unpowered hm ..
  | power | setA | setX | setY | forceStatus => simp at hc

/-- Settles O50: an instruction always has a case, so only the lifecycle refuses a step (`step_refused`). -/
theorem runningStepIsNeverRefused : Obligations.RunningStepIsNeverRefused :=
  ⟨exec_ne_refused, fun _ _ => step_refused⟩

/-! The fault, and what clears it. -/

/-- A core that has been powered on answers its accessors (R235, R271). -/
theorem readCall_access_of_powered {α : Type} {s : State} (h : s.mode ≠ .unpowered) (wrap : α → HostReply) (v : α) :
    readCall s wrap (s.access v) = (wrap v, s) := by
  unfold State.access
  cases hm : s.mode with
  | unpowered => exact absurd hm h
  | running | faulted => rfl

/-- Every host call but `power()` keeps a fault and its reason. -/
theorem hostCall_keeps_fault {c : HostCall} (hc : c ≠ .power) {s : State} {r : FaultReason}
    (h : s.mode = .faulted r) : (hostCall c s).2.mode = .faulted r := by
  cases c with
  | power => exact absurd rfl hc
  | step => rw [hostCall_step_of_not_running (by simp [h]), h]
  | readA | readX | readY | readStatus | readPc | readCycles =>
    exact (congrArg State.mode (readCall_state ..)).trans h
  | setA | setX | setY | forceStatus => exact h

theorem hostRun_keeps_fault {cs : List HostCall} (hcs : HostCall.power ∉ cs) {s : State} {r : FaultReason}
    (h : s.mode = .faulted r) : (hostRun cs s).2.mode = .faulted r := by
  induction cs generalizing s with
  | nil => exact h
  | cons c cs ih =>
    rw [List.mem_cons, not_or] at hcs
    obtain ⟨hc, hrest⟩ := hcs
    exact ih hrest (hostCall_keeps_fault (Ne.symm hc) h)

/-- A successful `power()` depends on the bus and the parameters alone, whatever the lifecycle state (R260, R262). -/
theorem power_next_congr {s t u : State} (hbus : t.bus = s.bus) (hparams : t.params = s.params)
    (h : power s = .next u) : power t = .next u := by
  obtain ⟨w, b, hread, rfl⟩ := power_next h
  simp only [power, hbus, hparams, hread, poweredState]

/-- A step that raises leaves the core Faulted with the reason it reports (R235). -/
theorem hostCall_step_raised {s : State} {r : FaultReason} (h : (hostCall .step s).1 = .raised r) :
    (hostCall .step s).2.mode = .faulted r := by
  simp only [hostCall] at h ⊢
  cases hs : step s with
  | next t => rw [hs] at h; cases h
  | refused q => rw [hs] at h; cases h
  | fault f =>
    rw [hs] at h
    obtain ⟨-, b, -, ⟨op, rfl, -⟩ | ⟨e, rfl⟩⟩ := step_fault hs
    · cases h; rfl
    · cases h; rfl

/-- Settles O41, the calls without `power()` by induction (`hostRun_keeps_fault`). -/
theorem faultIsKeptUntilPower : Obligations.FaultIsKeptUntilPower := by
  refine ⟨fun s r h => ?_, fun s r => hostCall_step_raised⟩
  have accessor {α : Type} (wrap : α → HostReply) (v : α) := readCall_access_of_powered (s := s) (by simp [h]) wrap v
  exact ⟨hostCall_step_of_not_running (by simp [h]), accessor _ _, accessor _ _, accessor _ _,
    accessor _ _, accessor _ _, accessor _ _, fun _ hcs => hostRun_keeps_fault hcs h,
    fun _ _ hbus hparams => power_next_congr hbus hparams⟩

/-- Settles O48: `step_fault` gives the state left, and the accesses made lead to its bus. -/
theorem raisedStepCommitsNothing : Obligations.RaisedStepCommitsNothing := by
  intro s f h
  obtain ⟨-, b, hreach, hleft⟩ := step_fault h
  exact ⟨b, hreach.log, hreach.windows, hleft.imp (fun ⟨op, hf, _⟩ => ⟨op, hf⟩) id⟩

/-! The opcode fetch. -/

theorem fetchRest_ne_undefined (r : OpcodeRow) (pc : Word) (b c : Bus) (op : Byte) :
    fetchRest r pc b ≠ .ok (.undefined op) c := by
  intro h
  unfold fetchRest at h
  split at h
  · cases h
  · obtain ⟨_, _, -, hk⟩ := BusResult.andThen_ok h
    cases hk
  · obtain ⟨_, _, -, hk⟩ := BusResult.andThen_ok h
    cases hk

/-- A fetch ends with no instruction exactly where the byte at PC is one of R100's, or out of `OPCODE_SET`; the read
of that byte is then its only access (R110, R231). -/
theorem fetch_undefined_iff {s : State} {op : Byte} {b : Bus} : fetch s = .ok (.undefined op) b ↔
    s.bus.read s.pc = .ok op b ∧ (op ∈ undefinedOpcodes ∨ s.params.excludedOpcodes.contains op = true) := by
  rw [← findByte_eq_none_iff]
  constructor
  · intro h
    obtain ⟨v, c, hread, hk⟩ := BusResult.andThen_ok h
    split at hk
    next hout => cases hk; exact ⟨hread, .inr hout⟩
    next =>
      split at hk
      next hnone => cases hk; exact ⟨hread, .inl hnone⟩
      next => exact absurd hk (fetchRest_ne_undefined _ _ _ _ _)
  · rintro ⟨hread, hop⟩
    rw [fetch, hread, BusResult.ok_andThen]
    split
    next => rfl
    next hin => rw [hop.resolve_right hin]

/-- A Running core whose byte at PC stands for no instruction raises a DecodeError with it (R231, D1). -/
theorem step_of_no_opcode {s : State} {op : Byte} {b : Bus} (hmode : s.mode = .running)
    (hread : s.bus.read s.pc = .ok op b)
    (hop : op ∈ undefinedOpcodes ∨ s.params.excludedOpcodes.contains op = true) :
    step s = .fault (.decodeError op s.pc (faultedState (.decodeError op s.pc) s b)) := by
  simp only [step, hmode, fetch_undefined_iff.2 ⟨hread, hop⟩]

/-- Settles O37: one of the two ways a byte stands for no instruction. -/
theorem undefinedOpcodeRaisesDecodeError : Obligations.UndefinedOpcodeRaisesDecodeError :=
  fun _ _ _ hmode hread hop => step_of_no_opcode hmode hread (.inl hop)

/-- A DecodeError is raised for no other byte than that at PC, and for no other reason. -/
theorem step_decodeError {s left : State} {op : Byte} {a : Word} (h : step s = .fault (.decodeError op a left)) :
    a = s.pc ∧ ∃ b, s.bus.read s.pc = .ok op b ∧ left.bus = b ∧
      (op ∈ undefinedOpcodes ∨ s.params.excludedOpcodes.contains op = true) := by
  obtain ⟨-, b, -, ⟨op', hf, hfetch⟩ | ⟨e, hf⟩⟩ := step_fault h
  · cases hf
    obtain ⟨hread, hop⟩ := fetch_undefined_iff.1 hfetch
    exact ⟨rfl, b, hread, rfl, hop⟩
  · cases hf

/-- A Running core whose opcode fetch raises ends there (R233). -/
theorem step_of_read_raised {s : State} {e : Nat} {b : Bus} (hmode : s.mode = .running)
    (hread : s.bus.read s.pc = .raised e b) : step s = raisedBy s e b := by
  have hfetch : fetch s = .raised e b := by rw [fetch, hread, BusResult.raised_andThen]
  simp only [step, hmode, hfetch]
  rfl

/-! A bus error ends a step at the access that raised it. -/

/-- The accesses of an outcome, as the result that `BusResult.EndsAtError` speaks of: those of the state it goes on to,
or of the state a bus error left. -/
def accessResult : Host.Outcome State Fault Refusal → BusResult State
  | .next t => .ok t t.bus
  | .fault (.busError e left) => .raised e left.bus
  | .fault (.decodeError _ _ _) => .noCase
  | .refused _ => .noCase

theorem finish_endsAtError {s : State} {b : Bus} {r : BusResult State} (h : r.EndsAtError b) :
    (accessResult (finish s r)).EndsAtError b := by
  cases r with
  | ok | raised | noCase => exact h

/-- An operation that commits what `r` answered makes no access of its own. -/
theorem finish_andThen_endsAtError {α : Type} {s : State} {b : Bus} {r : BusResult α} (h : r.EndsAtError b)
    (k : α → State) : (accessResult (finish s (r.andThen fun v c => .ok (k v) c))).EndsAtError b :=
  finish_endsAtError (h.andThen fun _ c => .ok _ c)

theorem storeRow_endsAtError (o : Operand) (base : Nat) (v : Byte) (s : State) :
    (accessResult (storeRow o base v s)).EndsAtError s.bus :=
  finish_endsAtError ((operandAddress_endsAtError o s s.bus).andThen fun t b =>
    (b.write_endsAtError t.1 v).andThen fun _ c => .ok _ c)

theorem modifyRow_endsAtError (o : Operand) (base : Nat) (f : Byte → State → Byte × Byte) (s : State) :
    (accessResult (modifyRow o base f s)).EndsAtError s.bus :=
  finish_endsAtError ((readOperand_endsAtError o s s.bus).andThen fun _ b =>
    (store_endsAtError _ _ s b).andThen fun _ c => .ok _ c)

theorem branchRow_endsAtError (off : Byte) (taken : Bool) (s : State) :
    (accessResult (branchRow off taken s)).EndsAtError s.bus :=
  finish_endsAtError ((operandAddress_endsAtError _ s s.bus).andThen fun _ b => by
    split
    · exact .ok _ b
    · exact .ok _ b)

/-- Every operation ends at the access that raises, with any operand. -/
theorem operationStep_endsAtError (op : Operation) (o : Operand) (base : Nat) (s : State) :
    (accessResult (operationStep op o base s)).EndsAtError s.bus := by
  unfold operationStep
  cases op with
  | adc | sbc | cmp | cpx | cpy | eor | and | ora | bit | lda | ldx | ldy =>
    exact finish_andThen_endsAtError (readOperand_endsAtError o s s.bus) _
  | sta | stx | sty => exact storeRow_endsAtError ..
  | inc | dec | lsr | asl | rol | ror => exact modifyRow_endsAtError ..
  | inx | iny | dex | dey | tax | tay | txa | tya | tsx | txs | clc | sec | cli | sei | cld | sed | clv | nop =>
    exact finish_andThen_endsAtError (resolve_endsAtError .implied s s.bus) _
  | pha | php => exact finish_andThen_endsAtError (push_endsAtError _ s s.bus) _
  | pla | plp => exact finish_andThen_endsAtError (pull_endsAtError s s.bus) _
  | bpl | bmi | bvc | bvs | bcc | bcs | bne | beq =>
    cases o with
    | relative off => exact branchRow_endsAtError ..
    | _ => trivial
  | jmp => exact finish_andThen_endsAtError (operandAddress_endsAtError o s s.bus) _
  | jsr =>
    exact finish_endsAtError ((operandAddress_endsAtError o s s.bus).andThen fun _ b =>
      (pushWord_endsAtError _ s b).andThen fun _ c => .ok _ c)
  | rts => exact finish_andThen_endsAtError (pullWord_endsAtError s s.bus) _
  | brk => exact finish_andThen_endsAtError (enterTrap_endsAtError _ _ s s.bus) _
  | rti => exact finish_andThen_endsAtError (returnFromTrap_endsAtError s s.bus) _

theorem exec_endsAtError (i : Instr) (s : State) : (accessResult (exec i s)).EndsAtError s.bus :=
  exec_eq_operationStep i s ▸ operationStep_endsAtError ..

/-- What a step makes of a fetch that answered, as a result. -/
def fetchedResult (s : State) : Fetched → Bus → BusResult State
  | .instr i, b => accessResult (exec i (s.setBus b))
  | .undefined _, _ => .noCase

/-- The accesses of a Running core's step are those of the fetch, then those of the instruction. -/
theorem accessResult_step {s : State} (h : s.mode = .running) :
    accessResult (step s) = (fetch s).andThen (fetchedResult s) := by
  unfold step
  rw [h]
  cases fetch s with
  | ok f b =>
    cases f with
    | instr | undefined => rfl
  | raised | noCase => rfl

theorem fetchedResult_endsAtError (s : State) (f : Fetched) (b : Bus) : (fetchedResult s f b).EndsAtError b := by
  cases f with
  | instr i => exact exec_endsAtError i (s.setBus b)
  | undefined op => trivial

/-- Every step ends at the access that raises. -/
theorem step_endsAtError (s : State) : (accessResult (step s)).EndsAtError s.bus := by
  by_cases h : s.mode = .running
  · rw [accessResult_step h]
    exact (fetch_endsAtError s).andThen (fetchedResult_endsAtError s)
  · rw [step_of_not_running h]
    trivial

/-- Settles O49: the lifecycle, the read of the opcode and its byte each end the step, in this order; the history of
a step that goes on is `step_endsAtError`'s. -/
theorem errorsInAccessOrder : Obligations.ErrorsInAccessOrder := by
  intro s
  have hend := step_endsAtError s
  refine ⟨step_of_not_running, fun _ _ => step_of_read_raised, fun _ _ _ => step_decodeError,
    fun _ _ hmode hread hout => step_of_no_opcode hmode hread (.inr hout),
    fun _ _ hmode hread hop => step_of_no_opcode hmode hread (.inl hop), fun e left h => ?_, fun t h => ?_⟩
  · rw [h] at hend
    exact hend
  · rw [h] at hend
    exact hend

end Sys2Proof.Machine

/-! Power-on, and what the other calls of the host surface report and leave (R260 to R262, R270 to R274). -/

namespace Sys2Proof.Machine

/-! Power-on. -/

/-- `power()` where the Word at the reset vector can be read (R260). -/
theorem power_of_readWord {s : State} {w : Word} {b : Bus} (h : s.bus.readWord s.params.resetVector = .ok w b) :
    power s = .next (poweredState s w b) := by
  rw [power, h]

/-- `power()` where a read of the reset vector raises: an Unpowered core with the accesses made (R262, D14). -/
theorem power_of_readWord_raised {s : State} {e : Nat} {b : Bus}
    (h : s.bus.readWord s.params.resetVector = .raised e b) :
    power s = .fault (.busError e ((s.setBus b).setMode .unpowered)) := by
  rw [power, h]

/-- Settles O43: the two reads are one `readWord`, which leaves the memory alone and alone decides the outcome. -/
theorem powerOnResetsEverything : Obligations.PowerOnResetsEverything := by
  refine ⟨rfl, rfl, fun s l h b1 b2 hlow hhigh => ?_, fun s e b => power_of_readWord_raised⟩
  have hvector : s.bus.readWord s.params.resetVector = .ok (concat h l) b2 := Bus.readPair_of hlow hhigh
  exact ⟨power_of_readWord hvector, ((s.bus.readPair_readsTo _ _).ok hvector).stored⟩

/-- Settles O32: the values of R261 are those `State.reset` is written with, and a memory that lists no cell is
canonical; `resetIsPowerOnOfTheFixture` ties them to `power()`. -/
theorem resetMeetsTheInvariant : Obligations.ResetMeetsTheInvariant :=
  ⟨rfl, rfl, rfl, rfl, rfl, rfl, rfl, rfl, rfl⟩

/-! The other calls. -/

/-- Settles O47: an accessor leaves the state as it is (`readCall_state`), each of the four others writes one register. -/
theorem onlyPowerAndStepMovePcAndSp : Obligations.OnlyPowerAndStepMovePcAndSp := by
  intro c s hpower hstep
  cases c with
  | power => exact absurd rfl hpower
  | step => exact absurd rfl hstep
  | readA | readX | readY | readStatus | readPc | readCycles =>
    refine ⟨?_, fun _ => readCall_state ..⟩
    simp only [hostCall, readCall_state]
  | setA v | setX v | setY v | forceStatus v => exact ⟨rfl, fun h => absurd (h v) (by simp)⟩

/-- Settles O45: the four calls are the state's own register writes, and `forceStatus` takes all eight bits as given. -/
theorem settersTouchOneRegister : Obligations.SettersTouchOneRegister :=
  fun _ _ => ⟨rfl, rfl, rfl, rfl⟩

/-- Settles O46: a core that was powered on answers (`readCall_access_of_powered`), an Unpowered one refuses
(`stepRefusedWithoutPower`). -/
theorem accessorsReportTheState : Obligations.AccessorsReportTheState := by
  refine ⟨fun s h => ?_, fun s c hmode hc => (stepRefusedWithoutPower s c hmode (List.mem_cons_of_mem _ hc)).1⟩
  have accessor {α : Type} (wrap : α → HostReply) (v : α) := readCall_access_of_powered h wrap v
  exact ⟨accessor _ _, accessor _ _, accessor _ _, accessor _ _, accessor _ _, accessor _ _⟩

end Sys2Proof.Machine
